-- ==== Sys2Proof/Word.lean ====
section
/-! DEFINITION. The word and byte types (00_scope.md R10): a word is 32 bits, unsigned, and `+`, `-`, `*` on words are
taken modulo 2^32, which is what `BitVec` arithmetic does. -/
namespace Sys2Proof

/-- A word is 32 bits, unsigned (R10). -/
abbrev Word := BitVec 32

/-- A byte of device memory (R52). -/
abbrev Byte := BitVec 8

/-- A channel id, 0 to 31 (R5, R58). -/
abbrev ChanId := BitVec 5

/-- A subchannel id, 0 to 7 (R5, R58). -/
abbrev SubId := BitVec 3

/-- A method number as a header carries it, 11 bits (R126). -/
abbrev Mthd := BitVec 11

end Sys2Proof
end

