-- ==== Sys2Proof/Syntax.lean ====
section
/-! DEFINITION. The instructions: one constructor for each row of spec/opcode_table.json (30_encoding.md R121, R131,
R133), the classes they belong to, and the parse slot, which is what a decoder must know beside the word (R120). -/
namespace Sys2Proof

/-- The nine classes of objects that have a handler table (R132, R196). -/
inductive Cls where
  | clip | rop | patt | surf2d | gdi | ifc | blit | m2mf | d3d
deriving DecidableEq, Repr

/-- Where R189 routes a method number from `0x040` up: to the software engine, to an engine this block does not have,
or to the graphics engine with the class of the bound object (`none`: none of the nine, R191). -/
inductive Route where
  | software
  | unknownEngine
  | graphics (cls : Option Cls)
deriving DecidableEq, Repr

/-- What decides the meaning of the next word (R120): control mode (`remaining = 0`), or parameter mode with the route
of the current subchannel and the current method number, as spec/opcode_table.json numbers the method; or parameter
mode at a number under which the device has no method the table lists. -/
inductive Slot where
  | control
  | param (r : Route) (m : Word)
  | noRow
deriving DecidableEq, Repr

/-- One constructor for each row of the opcode table. A method row carries its parameter `p` as the word stands in the
stream (a handle not yet resolved), and the bits of the method number that its mask leaves free. -/
inductive Instr where
  /-- R154 -/
  | jmpl (target : Word)
  /-- R155 -/
  | jmp (target : Word)
  /-- R156 -/
  | call (target : Word)
  /-- R157 -/
  | ret
  /-- R158, `ni = 0` -/
  | hdr (subc : SubId) (mthd : Mthd) (count : BitVec 11)
  /-- R158, `ni = 1` -/
  | hdrNi (subc : SubId) (mthd : Mthd) (count : BitVec 11)
  /-- R159, `w[1:0] = 11`; the whole word, which EV1 records -/
  | badLow11 (w : Word)
  /-- R159, bit 31 -/
  | badB31 (w : Word)
  /-- R159, `w[31:29] = 011` -/
  | badB3029 (w : Word)
  /-- R159, bit 16 -/
  | badB16 (w : Word)
  /-- R159, bit 17 and not the return word -/
  | badB17 (w : Word)
  /-- R160: a parameter word, whatever its bits -/
  | data (p : Word)
  /-- R182 -/
  | bind (p : Word)
  /-- R185, method `0x001` -/
  | globalUndef001 (p : Word)
  /-- R185, methods `0x002` and `0x003` -/
  | globalUndef002 (m : Mthd) (p : Word)
  /-- R185, methods `0x004` to `0x007` -/
  | globalUndef004 (m : Mthd) (p : Word)
  /-- R185, methods `0x008` to `0x00F` -/
  | globalUndef008 (m : Mthd) (p : Word)
  /-- R185, methods `0x010` to `0x013` -/
  | globalUndef010 (m : Mthd) (p : Word)
  /-- R185, method `0x015` -/
  | globalUndef015 (p : Word)
  /-- R185, methods `0x016` and `0x017` -/
  | globalUndef016 (m : Mthd) (p : Word)
  /-- R185, methods `0x018` to `0x01F` -/
  | globalUndef018 (m : Mthd) (p : Word)
  /-- R185, methods `0x020` to `0x03F` -/
  | globalUndef020 (m : Mthd) (p : Word)
  /-- R184 -/
  | refCnt (p : Word)
  /-- R187 -/
  | notify (p : Word)
  /-- R188 -/
  | setNotifier (p : Word)
  /-- R211 -/
  | clipPoint (p : Word)
  /-- R212 -/
  | clipSize (p : Word)
  /-- R215 -/
  | rop (p : Word)
  /-- R217 -/
  | pattColor0 (p : Word)
  /-- R218 -/
  | pattColor1 (p : Word)
  /-- R219 -/
  | pattMono0 (p : Word)
  /-- R220 -/
  | pattMono1 (p : Word)
  /-- R221, method `0x100 + i` -/
  | pattIdx (i : BitVec 4) (p : Word)
  /-- R224 -/
  | surfDmaSrc (p : Word)
  /-- R225 -/
  | surfDmaDst (p : Word)
  /-- R226 -/
  | surfFormat (p : Word)
  /-- R227 -/
  | surfPitch (p : Word)
  /-- R228 -/
  | surfOfsSrc (p : Word)
  /-- R229 -/
  | surfOfsDst (p : Word)
  /-- R252 -/
  | gdiColorA (p : Word)
  /-- R253, method `0x100 + 2i` -/
  | gdiUnclippedPoint (i : BitVec 5) (p : Word)
  /-- R254, method `0x101 + 2i` -/
  | gdiUnclippedSize (i : BitVec 5) (p : Word)
  /-- R255 -/
  | gdiClipPoint0 (p : Word)
  /-- R256 -/
  | gdiClipPoint1 (p : Word)
  /-- R257 -/
  | gdiColorB (p : Word)
  /-- R258, method `0x180 + 2i` -/
  | gdiClippedPoint0 (i : BitVec 5) (p : Word)
  /-- R259, method `0x181 + 2i` -/
  | gdiClippedPoint1 (i : BitVec 5) (p : Word)
  /-- R262 -/
  | ifcPoint (p : Word)
  /-- R263 -/
  | ifcSizeOut (p : Word)
  /-- R264 -/
  | ifcSizeIn (p : Word)
  /-- R265, methods `0x100` to `0x1FF`; the method number, which EV11 records -/
  | ifcData100 (m : Mthd) (p : Word)
  /-- R265, methods `0x200` to `0x3FF` -/
  | ifcData200 (m : Mthd) (p : Word)
  /-- R265, methods `0x400` to `0x7FF` -/
  | ifcData400 (m : Mthd) (p : Word)
  /-- R272 -/
  | blitPointIn (p : Word)
  /-- R273 -/
  | blitPointOut (p : Word)
  /-- R274 -/
  | blitSize (p : Word)
  /-- R277 -/
  | m2mfDmaIn (p : Word)
  /-- R278 -/
  | m2mfDmaOut (p : Word)
  /-- R279 -/
  | m2mfOfsIn (p : Word)
  /-- R280 -/
  | m2mfOfsOut (p : Word)
  /-- R281 -/
  | m2mfPitchIn (p : Word)
  /-- R282 -/
  | m2mfPitchOut (p : Word)
  /-- R283 -/
  | m2mfLineLen (p : Word)
  /-- R284 -/
  | m2mfLineCount (p : Word)
  /-- R285 -/
  | m2mfFormat (p : Word)
  /-- R286 -/
  | m2mfBufferNotify (p : Word)
  /-- R289 -/
  | d3dDmaColor (p : Word)
  /-- R290 -/
  | d3dDmaZeta (p : Word)
  /-- R291 -/
  | d3dSurfaceFormat (p : Word)
  /-- R292 -/
  | d3dSurfacePitch (p : Word)
  /-- R293 -/
  | d3dColorOffset (p : Word)
  /-- R294 -/
  | d3dZetaOffset (p : Word)
  /-- R295 -/
  | d3dZclearValue (p : Word)
  /-- R296 -/
  | d3dCclearValue (p : Word)
  /-- R297 -/
  | d3dClear (p : Word)
  /-- R298 -/
  | d3dClearRectH (p : Word)
  /-- R299 -/
  | d3dClearRectV (p : Word)
deriving DecidableEq, Repr

end Sys2Proof
end

