-- ==== Sys2Proof/Config.lean ====
section
/-! DEFINITION. The construction parameters of 00_scope.md R6, as plain data, and the free values: what the environment
answers (system memory reads, the clock) is an opaque constant, so that nothing can be proved of its value. -/
namespace Sys2Proof

/-- Which side of the generation threshold the device is on (R6 `LAYOUT`). -/
inductive Layout where
  | pre | post
deriving DecidableEq, Repr

/-- Direction of the notifier link after a rebind (R6 `BIND_POST_LINK`, R182 (d)). -/
inductive PostLink where
  | store | load
deriving DecidableEq, Repr

/-- The parameter `display_match` of R288 as plain data: the default (the object's target tag is device memory), or
any explicit set of DMA objects. -/
inductive DisplayMatch where
  | deviceTarget
  | oneOf (objs : List Word)
deriving DecidableEq, Repr

/-- An answer of the oracle `dispatch_fail` (R195). -/
inductive FailMode where
  | no | before | after
deriving DecidableEq, Repr

/-- The twenty control registers of the table of R28. -/
inductive Reg where
  | intr | intrEn | busIntr | busIntrEn | fifoIntr | fifoIntrEn | fifoRamht | fifoRamfc | fifoAcquire | fifoCurchan
  | fifoSemaphore | fifoDmaInstance | fifoPut | fifoGet | fifoRef | grIntr | grNsource | grIntrEn | crtcIntr
  | crtcIntrEn
deriving DecidableEq, Repr

/-- A bit field of a word: its lowest bit and its width. -/
structure BitField where
  lo : Nat
  width : Nat
deriving DecidableEq, Repr

/-- Positions of channel id, engine id and object address in a hash context word (R6 `CTX_LAYOUT`, R92). -/
structure CtxLayout where
  chid : BitField
  eng : BitField
  obj : BitField
deriving DecidableEq, Repr

/-- A base address in a table register: its field, and the left shift that makes the field's value the address (R6
`REGMAP`, R29, R30). -/
structure BaseField where
  field : BitField
  shift : Nat
deriving DecidableEq, Repr

/-- The fields of `REG.FIFO_RAMHT` (R6 `REGMAP`, R29). -/
structure RamhtFields where
  base : BaseField
  size : BitField
deriving DecidableEq, Repr

/-- The positions of the single bits of the control registers (R6 `REGMAP`). -/
structure BitPlaces where
  /-- `INTR`: the FIFO domain (R32) -/
  intrFifo : Fin 32
  /-- `INTR`: the graphics domain (R32) -/
  intrGr : Fin 32
  /-- `INTR`: the CRTC domain (R32) -/
  intrCrtc : Fin 32
  /-- `INTR`: the bus domain (R32) -/
  intrBus : Fin 32
  /-- `INTR_EN`: the global interrupt enable (R33) -/
  globalEnable : Fin 32
  /-- `FIFO_INTR`: a method was deferred to the software engine (R34, R190) -/
  fifoDeferred : Fin 32
  /-- `GR_INTR`: a notification asks for an interrupt (R34, R193) -/
  grNotify : Fin 32
  /-- `GR_NSOURCE`: the notify-source bit (R36, R193) -/
  nsourceNotify : Fin 32
  /-- `FIFO_ACQUIRE`: the acquire flag (R31) -/
  acquire : Fin 32
deriving DecidableEq, Repr

/-- The size of a pixel or of an element of a 3D surface (R230, R301). -/
inductive ElemSize where
  | one | two | four
deriving DecidableEq, Repr

/-- A packing of two 16-bit numbers into a parameter (R130): `xy` has the first in `p[15:0]` and the second in
`p[31:16]`, `yx` the other way round. The first number is the horizontal one of a point or a size, the source or colour
pitch, the first column or row of a clear. -/
inductive Packing where
  | xy | yx
deriving DecidableEq, Repr

/-- The packing of every parameter that carries two 16-bit numbers which an executor reads (R6 `M_*`, R130). -/
structure Packings where
  surfPitch : Packing
  gdiUnclippedPoint : Packing
  gdiUnclippedSize : Packing
  gdiClipPoint0 : Packing
  gdiClipPoint1 : Packing
  gdiClippedPoint0 : Packing
  gdiClippedPoint1 : Packing
  ifcPoint : Packing
  ifcSizeOut : Packing
  ifcSizeIn : Packing
  blitPointIn : Packing
  blitPointOut : Packing
  blitSize : Packing
  d3dSurfacePitch : Packing
  d3dClearRectH : Packing
  d3dClearRectV : Packing
deriving DecidableEq, Repr

/-- What the second number of `D3D_CLEAR_RECT_H` and `D3D_CLEAR_RECT_V` is (R6 `M_*`, R298, R299): the last column or
row, the one after the last, or how many there are. -/
inductive SpanForm where
  | inclusive | exclusive | count
deriving DecidableEq, Repr

/-- What the parameters of the 3D clear class mean (R6 `M_*`, R291, R297 to R299, R301). -/
structure ClearForm where
  /-- where `d3d_format` holds the colour format code (R291) -/
  colorCode : BitField
  /-- where `d3d_format` holds the depth format code (R291) -/
  zetaCode : BitField
  /-- `cbytes`: element sizes by colour format code (R301) -/
  colorSizes : List (Word × ElemSize)
  /-- `zbytes`: element sizes by depth format code (R301) -/
  zetaSizes : List (Word × ElemSize)
  /-- the bits of `D3D_CLEAR` that enable the colour plane (R297) -/
  colorEnable : Word
  /-- the bits of `D3D_CLEAR` that enable the depth plane (R297) -/
  zetaEnable : Word
  /-- the form of the clear rectangle (R298, R299) -/
  span : SpanForm
deriving DecidableEq, Repr

/-- Offsets of the five saved fields in a slot of the context save area (R6 `FC_OFF`, R310). -/
structure FcOff where
  put : Word
  get : Word
  ref : Word
  dma : Word
  sema : Word
deriving DecidableEq, Repr

/-- The three implemented offsets of the per-channel aperture (R6 `REGMAP`, R332). -/
structure ShadowOff where
  put : Nat
  get : Nat
  ref : Nat
deriving DecidableEq, Repr

/-- The method numbers `M_*` (R6): the ranges of R184 to R186, and the number of every method but BIND, which is 0, and
SURF_FORMAT, which is `0x0C0`; the first number of a method that has several (log entry 3). -/
structure Mthds where
  /-- the last channel-global number; the first after BIND is 1 (R184, R185) -/
  globalLast : Mthd
  /-- the first number whose parameter is a handle (R186) -/
  handleFirst : Mthd
  /-- the last number whose parameter is a handle (R186) -/
  handleLast : Mthd
  refCnt : Mthd
  notify : Mthd
  setNotifier : Mthd
  clipPoint : Mthd
  clipSize : Mthd
  rop : Mthd
  pattColor0 : Mthd
  pattColor1 : Mthd
  pattMono0 : Mthd
  pattMono1 : Mthd
  pattIdx : Mthd
  surfDmaSrc : Mthd
  surfDmaDst : Mthd
  surfPitch : Mthd
  surfOfsSrc : Mthd
  surfOfsDst : Mthd
  gdiColorA : Mthd
  gdiUnclippedPoint : Mthd
  gdiUnclippedSize : Mthd
  gdiClipPoint0 : Mthd
  gdiClipPoint1 : Mthd
  gdiColorB : Mthd
  gdiClippedPoint0 : Mthd
  gdiClippedPoint1 : Mthd
  ifcPoint : Mthd
  ifcSizeOut : Mthd
  ifcSizeIn : Mthd
  ifcData : Mthd
  blitPointIn : Mthd
  blitPointOut : Mthd
  blitSize : Mthd
  m2mfDmaIn : Mthd
  m2mfDmaOut : Mthd
  m2mfOfsIn : Mthd
  m2mfOfsOut : Mthd
  m2mfPitchIn : Mthd
  m2mfPitchOut : Mthd
  m2mfLineLen : Mthd
  m2mfLineCount : Mthd
  m2mfFormat : Mthd
  m2mfBufferNotify : Mthd
  d3dDmaColor : Mthd
  d3dDmaZeta : Mthd
  d3dSurfaceFormat : Mthd
  d3dSurfacePitch : Mthd
  d3dColorOffset : Mthd
  d3dZetaOffset : Mthd
  d3dZclearValue : Mthd
  d3dCclearValue : Mthd
  d3dClear : Mthd
  d3dClearRectH : Mthd
  d3dClearRectV : Mthd
deriving DecidableEq, Repr

/-- The record of construction parameters (R6). It is fixed at construction and no step changes it. -/
structure Config where
  /-- `LAYOUT` -/
  layout : Layout
  /-- `VRAM_SIZE`, bytes of device memory -/
  vramSize : Nat
  /-- `CTX_LAYOUT` -/
  ctx : CtxLayout
  /-- `CLASS_MASK` -/
  classMask : Word
  /-- `FC_OFF` -/
  fcOff : FcOff
  /-- `REGMAP`: the offset of every control register -/
  regMap : List (Nat × Reg)
  /-- `REGMAP`: base of the object-table aperture (R324) -/
  objApBase : Nat
  /-- `REGMAP`: bytes of the object-table aperture (R320, R324) -/
  objApSize : Nat
  /-- `REGMAP`: base of the per-channel aperture (R332) -/
  chApBase : Nat
  /-- `REGMAP`: bytes per channel of the per-channel aperture (R332) -/
  chApStride : Nat
  /-- `REGMAP`: the implemented offsets of the per-channel aperture (R332) -/
  chApOff : ShadowOff
  /-- `REGMAP`: the fields of `FIFO_RAMHT` (R29) -/
  ramht : RamhtFields
  /-- `REGMAP`: the field of `FIFO_RAMFC` (R30) -/
  ramfc : BaseField
  /-- `REGMAP`: the single bits of the control registers (R31 to R34, R36) -/
  bits : BitPlaces
  /-- `ENG_GR` (R189); `ENG_SW` is 0, fixed by the source -/
  engGr : Word
  /-- `CLS_*` (R132) -/
  clsIds : List (Word × Cls)
  /-- `M_*`: the method numbers and the ranges among them (log entry 3) -/
  mthds : Mthds
  /-- `M_*`: the packings of the parameters (R130) -/
  packings : Packings
  /-- `M_*`: the parameters of the 3D clear class (R291, R297 to R299, R301) -/
  clear : ClearForm
  /-- `bpp`: bytes per pixel by surface format code; code 4, which is 2 bytes in every device, is not looked up (R230) -/
  bpp : List (Word × ElemSize)
  /-- `bpp`: the format whose top byte a fill masks out (R230) -/
  maskedFormat : Word
  /-- `IFC_FASTPATH_SIZE` (R263); `none`: undefined -/
  ifcFastpathSize : Option Word
  /-- `display_match` (R288) -/
  displayMatch : DisplayMatch
  /-- `MTHD_WRAP`: whether the method counter wraps at 2^11 (R160) -/
  mthdWrap : Bool
  /-- `BIND_POST_LINK` (R182) -/
  postLink : PostLink
deriving DecidableEq, Repr

/-- FREE VALUE (log entry 4): what the environment answers to the `k`-th read of system memory (R76, U9). -/
opaque Config.sysReadValue : Nat → Word

/-- FREE VALUE (log entry 5): what the environment's clock shows at the `k`-th reading, before the one limit the spec
sets, that it does not decrease (R194, U14). -/
opaque Config.clockValue : Nat → BitVec 64

end Sys2Proof
end

