-- ==== Sys2Proof/Machine/Bits.lean ====
section
/-! DEFINITION. Bit fields, packings and byte order (00_scope.md R10, 30_encoding.md R130, 20_memory.md R71): every
helper that takes a word to pieces or puts one together. -/
namespace Sys2Proof

/-- `v[hi:lo]` as an unsigned number (R10). -/
def field (hi lo : Nat) (v : Word) : Word :=
  (v >>> lo) &&& BitVec.ofNat 32 (2 ^ (hi + 1 - lo) - 1)

/-- The value of a configured field of a word (R10). -/
def BitField.get (f : BitField) (v : Word) : Word := (v >>> f.lo) &&& BitVec.ofNat 32 (2 ^ f.width - 1)

/-- The bits of a configured field. -/
def BitField.mask (f : BitField) : Word := BitVec.ofNat 32 (2 ^ f.width - 1) <<< f.lo

/-- The base address that a register holds in a configured field (R29, R30). -/
def BaseField.address (f : BaseField) (v : Word) : Word := f.field.get v <<< f.shift

/-- The word in which one bit is 1. -/
def bitMask (k : Fin 32) : Word := 1 <<< k.val

/-- `v[15:0]` as a natural number (R130: all 16-bit numbers are unsigned). -/
def lo16 (v : Word) : Nat := (field 15 0 v).toNat

/-- `v[31:16]` as a natural number (R130). -/
def hi16 (v : Word) : Nat := (field 31 16 v).toNat

/-- The first of the two numbers of a parameter, the horizontal one of a point or a size (R130). -/
def Packing.fst : Packing → Word → Nat
  | .xy, p => lo16 p
  | .yx, p => hi16 p

/-- The second of the two numbers of a parameter, the vertical one of a point or a size (R130). -/
def Packing.snd : Packing → Word → Nat
  | .xy, p => hi16 p
  | .yx, p => lo16 p

/-- A size in bytes. -/
def ElemSize.bytes : ElemSize → Nat
  | .one => 1
  | .two => 2
  | .four => 4

/-- The mask of the low `8n` bits of a word. -/
def byteMask (n : Nat) : Word := BitVec.ofNat 32 (2 ^ (8 * n) - 1)

/-- Byte `k` of a natural number, `k = 0` the least significant (R71). -/
def byteOf (v k : Nat) : Byte := BitVec.ofNat 8 (v >>> (8 * k))

/-- The four little-endian bytes of a word, the first at the lowest address (R71, R120). -/
def wordBytes (w : Word) : List Byte :=
  [byteOf w.toNat 0, byteOf w.toNat 1, byteOf w.toNat 2, byteOf w.toNat 3]

/-- The word made of four little-endian bytes (R71). -/
def wordOfBytes (b0 b1 b2 b3 : Byte) : Word :=
  b3 ++ (b2 ++ (b1 ++ b0))

/-- `merge(old, V, M) = (old & ~M) | (V & M)`, the value a partly written word takes (R323). -/
def merge (old v m : Word) : Word := (old &&& ~~~m) ||| (v &&& m)

end Sys2Proof
end

