-- ==== Sys2Proof/Machine/Numbering.lean ====
section
/-! DEFINITION. The method numbers of a device (00_scope.md R6 `M_*`): which method of spec/opcode_table.json a method
number names. With the defaults every number names the method that the table lists under it. -/
namespace Sys2Proof

/-- Where a method's numbers lie: `count` numbers from `base` on, `step` apart, in the device (R6 `M_*`), and from
`table` on in spec/opcode_table.json. -/
structure MthdEntry where
  base : Mthd
  table : Mthd
  step : Nat := 1
  count : Nat := 1
deriving DecidableEq, Repr

/-- The position of a method number among the numbers from `first` on; a number at or above `0x800` is no method's
(R131). -/
def MthdEntry.position (e : MthdEntry) (first : Mthd) (m : Word) : Option Nat :=
  let k := (m.toNat - first.toNat) / e.step
  if first.toNat + e.step * k = m.toNat ∧ k < e.count ∧ m.toNat < 0x800 then some k else none

/-- The opcode table's number of the method that the device numbers `m`. -/
def MthdEntry.toTable (e : MthdEntry) (m : Word) : Option Word :=
  (e.position e.base m).map (fun k => BitVec.ofNat 32 (e.table.toNat + e.step * k))

/-- The device's number of the method that the opcode table numbers `m`. -/
def MthdEntry.toDevice (e : MthdEntry) (m : Word) : Option Word :=
  (e.position e.table m).map (fun k => BitVec.ofNat 32 (e.base.toNat + e.step * k))

/-- The one channel-global method whose number is a parameter (R184). -/
def Mthds.global (n : Mthds) : List MthdEntry := [ { base := n.refCnt, table := 0x014 } ]

/-- The methods of every graphics class (R187, R188). -/
def Mthds.graphics (n : Mthds) : List MthdEntry :=
  [ { base := n.notify, table := 0x041 }, { base := n.setNotifier, table := 0x060 } ]

/-- The methods of a class (R196). SURF_FORMAT is `0x0C0` in every device. -/
def Mthds.ofClass (n : Mthds) : Cls → List MthdEntry
  | .clip => [ { base := n.clipPoint, table := 0x0C0 }, { base := n.clipSize, table := 0x0C1 } ]
  | .rop => [ { base := n.rop, table := 0x0C0 } ]
  | .patt =>
    [ { base := n.pattColor0, table := 0x0C4 }, { base := n.pattColor1, table := 0x0C5 },
      { base := n.pattMono0, table := 0x0C6 }, { base := n.pattMono1, table := 0x0C7 },
      { base := n.pattIdx, table := 0x100, count := 16 } ]
  | .surf2d =>
    [ { base := 0x0C0, table := 0x0C0 }, { base := n.surfDmaSrc, table := 0x061 },
      { base := n.surfDmaDst, table := 0x062 }, { base := n.surfPitch, table := 0x0C1 },
      { base := n.surfOfsSrc, table := 0x0C2 }, { base := n.surfOfsDst, table := 0x0C3 } ]
  | .gdi =>
    [ { base := n.gdiColorA, table := 0x0FF },
      { base := n.gdiUnclippedPoint, table := 0x100, step := 2, count := 32 },
      { base := n.gdiUnclippedSize, table := 0x101, step := 2, count := 32 },
      { base := n.gdiClipPoint0, table := 0x17D }, { base := n.gdiClipPoint1, table := 0x17E },
      { base := n.gdiColorB, table := 0x17F },
      { base := n.gdiClippedPoint0, table := 0x180, step := 2, count := 32 },
      { base := n.gdiClippedPoint1, table := 0x181, step := 2, count := 32 } ]
  | .ifc =>
    [ { base := n.ifcPoint, table := 0x0C1 }, { base := n.ifcSizeOut, table := 0x0C2 },
      { base := n.ifcSizeIn, table := 0x0C3 }, { base := n.ifcData, table := 0x100, count := 0x700 } ]
  | .blit =>
    [ { base := n.blitPointIn, table := 0x0C0 }, { base := n.blitPointOut, table := 0x0C1 },
      { base := n.blitSize, table := 0x0C2 } ]
  | .m2mf =>
    [ { base := n.m2mfDmaIn, table := 0x061 }, { base := n.m2mfDmaOut, table := 0x062 },
      { base := n.m2mfOfsIn, table := 0x0C3 }, { base := n.m2mfOfsOut, table := 0x0C4 },
      { base := n.m2mfPitchIn, table := 0x0C5 }, { base := n.m2mfPitchOut, table := 0x0C6 },
      { base := n.m2mfLineLen, table := 0x0C7 }, { base := n.m2mfLineCount, table := 0x0C8 },
      { base := n.m2mfFormat, table := 0x0C9 }, { base := n.m2mfBufferNotify, table := 0x0CA } ]
  | .d3d =>
    [ { base := n.d3dDmaColor, table := 0x065 }, { base := n.d3dDmaZeta, table := 0x066 },
      { base := n.d3dSurfaceFormat, table := 0x082 }, { base := n.d3dSurfacePitch, table := 0x083 },
      { base := n.d3dColorOffset, table := 0x084 }, { base := n.d3dZetaOffset, table := 0x085 },
      { base := n.d3dZclearValue, table := 0x763 }, { base := n.d3dCclearValue, table := 0x764 },
      { base := n.d3dClear, table := 0x765 }, { base := n.d3dClearRectH, table := 0x766 },
      { base := n.d3dClearRectV, table := 0x767 } ]

/-- The methods that a number can name on a route (R189). -/
def Mthds.onRoute (n : Mthds) : Route → List MthdEntry
  | .graphics (some c) => n.graphics ++ n.ofClass c
  | .graphics none => n.graphics
  | .software => []
  | .unknownEngine => []

/-- The opcode table's number of a method number among methods: that of the first method that has it; the number
itself where no method has it in the device or in the table; none where the table's method of that number has another
number in the device (log entry 3). -/
def tableNumber (es : List MthdEntry) (m : Word) : Option Word :=
  match es.findSome? (·.toTable m) with
  | some t => some t
  | none => if es.any (fun e => (e.position e.table m).isSome) then none else some m

/-- Whether a number other than BIND's is channel-global in the device (R180, R185). -/
def Mthds.isGlobal (n : Mthds) (m : Word) : Bool := decide (m.toNat ≤ n.globalLast.toNat)

/-- Whether the parameter of a method number is a handle in the device (R186). -/
def Mthds.takesHandle (n : Mthds) (m : Word) : Bool :=
  decide (n.handleFirst.toNat ≤ m.toNat ∧ m.toNat ≤ n.handleLast.toNat)

/-- The opcode table's number of the method that a device with these numbers has on a route (R180: BIND, the
channel-global methods, then the route); none where it is no method that the table lists for its kind: the table's
channel-global numbers lie below `0x040`, the others do not. -/
def Mthds.rowNumber (n : Mthds) (r : Route) (m : Word) : Option Word :=
  if m = 0 then some 0
  else
    match n.global.findSome? (·.toTable m) with
    | some t => some t
    | none =>
      if n.isGlobal m then (tableNumber n.global m).filter (fun t => decide (t.toNat < 0x040))
      else (tableNumber (n.onRoute r) m).filter (fun t => decide (0x040 ≤ t.toNat))

/-- The device's number of a method of the opcode table. -/
def Mthds.deviceNumber (n : Mthds) (cls : Option Cls) (m : Mthd) : Word :=
  ((n.global ++ n.onRoute (.graphics cls)).findSome? (·.toDevice (m.setWidth 32))).getD (m.setWidth 32)

/-- The device's number of PATT_IDX(i) (R221). -/
def Mthds.pattIdxNumber (n : Mthds) (i : BitVec 4) : Word := n.pattIdx.setWidth 32 + i.setWidth 32

/-- The device's number of a method of a GDI rectangle, the `i`-th of those that start at `first` (R253, R254, R258,
R259). -/
def gdiNumber (first : Mthd) (i : BitVec 5) : Word := first.setWidth 32 + 2 * i.setWidth 32

/-- The device's number of the IFC_DATA method that the opcode table numbers `m` (R265). -/
def Mthds.ifcDataNumber (n : Mthds) (m : Mthd) : Word := n.ifcData.setWidth 32 + (m.setWidth 32 - 0x100)

end Sys2Proof
end

