-- ==== Sys2Proof/Machine/Defaults.lean ====
section
/-! DEFINITION. The default column of the parameter table (00_scope.md R6) and the constants the spec fixes. -/
namespace Sys2Proof

/-- `PAGE_MASK = 0xFFFF_F000` (R83). -/
def pageMask : Word := 0xFFFFF000

/-- `ENG_SW = 0` (R189). -/
def engSw : Word := 0

/-- `FC_STRIDE`: 0x40 for `PRE`, 0x80 for `POST` (R310, fixed by the source). -/
def fcStride : Layout → Word
  | .pre => 0x40
  | .post => 0x80

/-- The table of R92. -/
def ctxLayoutOf : Layout → CtxLayout
  | .pre => { chid := ⟨24, 5⟩, eng := ⟨16, 8⟩, obj := ⟨0, 16⟩ }
  | .post => { chid := ⟨23, 5⟩, eng := ⟨20, 3⟩, obj := ⟨0, 20⟩ }

/-- The table of R310. -/
def fcOffOf : Layout → FcOff
  | .pre => { put := 0x00, get := 0x04, ref := 0x08, dma := 0x0C, sema := 0x2C }
  | .post => { put := 0x00, get := 0x04, ref := 0x08, dma := 0x0C, sema := 0x30 }

/-- The default offsets of R28. -/
def regMapOf (l : Layout) : List (Nat × Reg) :=
  [ (0x000100, .intr), (0x000140, .intrEn), (0x001100, .busIntr), (0x001140, .busIntrEn),
    (0x002100, .fifoIntr), (0x002140, .fifoIntrEn), (0x002210, .fifoRamht),
    ((match l with | .pre => 0x002214 | .post => 0x002220), .fifoRamfc),
    (0x002600, .fifoAcquire), (0x003204, .fifoCurchan), (0x003214, .fifoSemaphore),
    (0x00322C, .fifoDmaInstance), (0x003240, .fifoPut), (0x003244, .fifoGet), (0x003248, .fifoRef),
    (0x400100, .grIntr), (0x400108, .grNsource), (0x400140, .grIntrEn),
    (0x600100, .crtcIntr), (0x600140, .crtcIntrEn) ]

/-- `CLS_*`, the defaults of R132. -/
def clsIdsDefault : List (Word × Cls) :=
  [ (0x19, .clip), (0x43, .rop), (0x44, .patt), (0x42, .surf2d), (0x4A, .gdi), (0x61, .ifc), (0x5F, .blit),
    (0x39, .m2mf), (0x97, .d3d) ]

/-- `M_*`, the defaults: the numbers of spec/opcode_table.json (R184, R187, R188, R211 to R299), and the
ranges of R184 to R186. -/
def mthdsDefault : Mthds where
  globalLast := 0x03F
  handleFirst := 0x060
  handleLast := 0x07F
  refCnt := 0x014
  notify := 0x041
  setNotifier := 0x060
  clipPoint := 0x0C0
  clipSize := 0x0C1
  rop := 0x0C0
  pattColor0 := 0x0C4
  pattColor1 := 0x0C5
  pattMono0 := 0x0C6
  pattMono1 := 0x0C7
  pattIdx := 0x100
  surfDmaSrc := 0x061
  surfDmaDst := 0x062
  surfPitch := 0x0C1
  surfOfsSrc := 0x0C2
  surfOfsDst := 0x0C3
  gdiColorA := 0x0FF
  gdiUnclippedPoint := 0x100
  gdiUnclippedSize := 0x101
  gdiClipPoint0 := 0x17D
  gdiClipPoint1 := 0x17E
  gdiColorB := 0x17F
  gdiClippedPoint0 := 0x180
  gdiClippedPoint1 := 0x181
  ifcPoint := 0x0C1
  ifcSizeOut := 0x0C2
  ifcSizeIn := 0x0C3
  ifcData := 0x100
  blitPointIn := 0x0C0
  blitPointOut := 0x0C1
  blitSize := 0x0C2
  m2mfDmaIn := 0x061
  m2mfDmaOut := 0x062
  m2mfOfsIn := 0x0C3
  m2mfOfsOut := 0x0C4
  m2mfPitchIn := 0x0C5
  m2mfPitchOut := 0x0C6
  m2mfLineLen := 0x0C7
  m2mfLineCount := 0x0C8
  m2mfFormat := 0x0C9
  m2mfBufferNotify := 0x0CA
  d3dDmaColor := 0x065
  d3dDmaZeta := 0x066
  d3dSurfaceFormat := 0x082
  d3dSurfacePitch := 0x083
  d3dColorOffset := 0x084
  d3dZetaOffset := 0x085
  d3dZclearValue := 0x763
  d3dCclearValue := 0x764
  d3dClear := 0x765
  d3dClearRectH := 0x766
  d3dClearRectV := 0x767

/-- The fields of R29. -/
def ramhtDefault : RamhtFields where
  base := { field := ⟨4, 5⟩, shift := 12 }
  size := ⟨16, 2⟩

/-- The field of R30. -/
def ramfcOf : Layout → BaseField
  | .pre => { field := ⟨0, 16⟩, shift := 8 }
  | .post => { field := ⟨0, 16⟩, shift := 16 }

/-- The bits of R31 to R34 and R36. -/
def bitsDefault : BitPlaces where
  intrFifo := 8
  intrGr := 12
  intrCrtc := 24
  intrBus := 28
  globalEnable := 0
  fifoDeferred := 0
  grNotify := 0
  nsourceNotify := 0
  acquire := 0

/-- The packings of R227, R253 to R259, R262 to R264, R272 to R274, R292, R298 and R299. -/
def packingsDefault : Packings where
  surfPitch := .xy
  gdiUnclippedPoint := .yx
  gdiUnclippedSize := .yx
  gdiClipPoint0 := .xy
  gdiClipPoint1 := .xy
  gdiClippedPoint0 := .xy
  gdiClippedPoint1 := .xy
  ifcPoint := .xy
  ifcSizeOut := .xy
  ifcSizeIn := .xy
  blitPointIn := .xy
  blitPointOut := .xy
  blitSize := .xy
  d3dSurfacePitch := .xy
  d3dClearRectH := .xy
  d3dClearRectV := .xy

/-- R291, R297 to R299 and the tables of R301. -/
def clearDefault : ClearForm where
  colorCode := ⟨0, 4⟩
  zetaCode := ⟨4, 4⟩
  colorSizes := [(1, .two), (2, .two), (3, .two), (4, .four), (5, .four), (6, .four), (7, .four), (8, .four)]
  zetaSizes := [(1, .two), (2, .four)]
  colorEnable := 0xF0
  zetaEnable := 0x03
  span := .inclusive

/-- The table of R230; code 4 is the source's. -/
def bppDefault : List (Word × ElemSize) :=
  [ (0x1, .one), (0x2, .two), (0x3, .two), (0x5, .two), (0x6, .four), (0x7, .four), (0x8, .four), (0x9, .four),
    (0xA, .four), (0xB, .four) ]

/-- The default column of R6 for a layout; `VRAM_SIZE` is the test vectors' (log entry 2). -/
def Config.ofLayout (l : Layout) : Config where
  layout := l
  vramSize := 0x01000000
  ctx := ctxLayoutOf l
  classMask := 0x000000FF
  fcOff := fcOffOf l
  regMap := regMapOf l
  objApBase := 0x700000
  objApSize := 0x100000
  chApBase := match l with | .pre => 0x800000 | .post => 0xC00000
  chApStride := match l with | .pre => 0x10000 | .post => 0x1000
  chApOff := { put := 0x40, get := 0x44, ref := 0x48 }
  ramht := ramhtDefault
  ramfc := ramfcOf l
  bits := bitsDefault
  engGr := 1
  clsIds := clsIdsDefault
  mthds := mthdsDefault
  packings := packingsDefault
  clear := clearDefault
  bpp := bppDefault
  maskedFormat := 0x6
  ifcFastpathSize := none
  displayMatch := .deviceTarget
  mthdWrap := false
  postLink := .store

end Sys2Proof
end

