-- ==== Sys2Proof/Machine/State.lean ====
section
/-! DEFINITION. The state of the block (10_state.md) as plain data, the model's own fields beside it (construction
parameters, coming inputs, counters of free values, output traces), the reasons a step could stop, and the state after
reset (R57, R400). -/
namespace Sys2Proof.Machine

open Sys2Proof

/-! ## Memory -/

/-- Device memory (R52): the bytes that differ from `memFill`, addresses strictly rising. -/
abbrev Memory := List Host.Cell

/-- What an unlisted address reads as. The spec leaves device memory at power-on unspecified (R52, R400, U8):
DESIGN CHOICE, log entry 1 (unsafe). -/
def memFill : Byte := 0

/-- The addresses rise strictly and no entry equals what an unlisted address reads as. -/
def memWfFrom : Option Nat → Memory → Bool
  | _, [] => true
  | lo, (a, v) :: m => (match lo with | none => true | some l => decide (l < a)) && v != memFill && memWfFrom (some a) m

/-- The canonical form of device memory. -/
def Memory.wf (m : Memory) : Bool := memWfFrom none m

/-! ## Per-channel records -/

/-- A subchannel binding (R41). -/
structure Subchannel where
  object : Word
  engine : Word
  notifier : Word
deriving DecidableEq, Repr

/-- Clip rectangle class (R43). -/
structure ClipState where
  point : Word
  size : Word
deriving DecidableEq, Repr

/-- Pattern class (R45). -/
structure PattState where
  color0 : Word
  color1 : Word
  mono : Vector Word 2
  idx : Vector Word 16
deriving DecidableEq, Repr

/-- 2D surface class (R46). -/
structure SurfState where
  srcObj : Word
  dstObj : Word
  format : Word
  pitch : Word
  ofsSrc : Word
  ofsDst : Word
deriving DecidableEq, Repr

/-- GDI fill class (R47). -/
structure GdiState where
  color : Word
  point : Word
  clip0 : Word
  clip1 : Word
  rect0 : Word
deriving DecidableEq, Repr

/-- "states {Configuring, Streaming, FastPath}" (R48). -/
inductive IfcPhase where
  | configuring | streaming | fastPath
deriving DecidableEq, Repr

/-- Image-upload class (R48). -/
structure IfcState where
  state : IfcPhase
  point : Word
  sizeOut : Word
  sizeIn : Word
  buf : List Word
  need : Nat
  fastOff : Word
deriving DecidableEq, Repr

/-- Block-copy class (R49). -/
structure BlitState where
  pointIn : Word
  pointOut : Word
deriving DecidableEq, Repr

/-- Memory-to-memory class (R50). -/
structure M2mfState where
  srcObj : Word
  dstObj : Word
  ofsIn : Word
  ofsOut : Word
  pitchIn : Word
  pitchOut : Word
  lineLen : Word
  lineCount : Word
  format : Word
  notify : Word
deriving DecidableEq, Repr

/-- 3D clear class (R51). -/
structure D3dState where
  colorObj : Word
  zetaObj : Word
  format : Word
  pitch : Word
  colorOfs : Word
  zetaOfs : Word
  zclear : Word
  cclear : Word
  rectH : Word
  rectV : Word
deriving DecidableEq, Repr

/-- Everything one channel owns inside the block (R37 to R51). -/
structure Channel where
  /-- R37: 0 expects a control word, more expects a parameter -/
  remaining : BitVec 11
  /-- R38 -/
  subc : SubId
  /-- R38: 32 bits, of which a header loads the low 11 -/
  mthd : Word
  /-- R39 -/
  ni : Bool
  /-- R40 -/
  subActive : Bool
  /-- R40 -/
  subReturn : Word
  /-- R41 -/
  sub : Vector Subchannel 8
  /-- R42 -/
  notifyArmed : Bool
  /-- R42 -/
  notifyType : Word
  clip : ClipState
  /-- R44 -/
  rop : Word
  patt : PattState
  surf : SurfState
  gdi : GdiState
  ifc : IfcState
  blit : BlitState
  m2mf : M2mfState
  d3d : D3dState
deriving DecidableEq, Repr

/-! ## Registers and the block -/

/-- The five live FIFO registers that a context switch moves (R21, R22, R24 to R27). -/
structure Live where
  put : Word
  /-- the get cursor, the program counter of the machine (R24) -/
  get : Word
  ref : Word
  dmaInstance : Word
  semaphore : Word
deriving DecidableEq, Repr

/-- The other control registers of R28 that hold state (`INTR` is computed, R32). -/
structure Ctl where
  curchan : Word
  ramht : Word
  ramfc : Word
  acquire : Word
  intrEn : Word
  busIntr : Word
  busIntrEn : Word
  fifoIntr : Word
  fifoIntrEn : Word
  grIntr : Word
  grNsource : Word
  grIntrEn : Word
  crtcIntr : Word
  crtcIntrEn : Word
deriving DecidableEq, Repr

/-- An entry of the pending-operation queue (R54). -/
structure PendEntry where
  chid : ChanId
  subc : SubId
  cls : Word
  mthd : Word
  param : Word
deriving DecidableEq, Repr

/-- The state of 10_state.md (R20), which a snapshot covers (R349). -/
structure Block where
  live : Live
  ctl : Ctl
  chans : Vector Channel 32
  dev : Memory
  pendq : List PendEntry
deriving DecidableEq, Repr

/-! ## Inputs, work in progress, outputs -/

/-- The registers an external source can set bits of (R347, R371). -/
inductive ExtReg where
  | busIntr | fifoIntr | grIntr | crtcIntr | grNsource
deriving DecidableEq, Repr

/-- One step of an agent outside the block (R7, R9, R346 to R349). A host access has `size + 1` bytes. -/
inductive Input where
  | read (a : BitVec 24) (size : Fin 8)
  | write (a : BitVec 24) (size : Fin 8) (data : BitVec 64)
  | tick
  | extRaise (x : ExtReg) (bits : Word)
  | pendTake
  | reset
  | snapshot
  | restore (b : Block)
deriving DecidableEq, Repr

/-- Work of the current host access or tick that is not done yet; the first of a list is done first. -/
inductive Task where
  /-- `Drain(cur)` (R151) -/
  | drain
  /-- `WriteWord(a, v, m)`, one word operation of a host write (R322) -/
  | word (a : Nat) (v m : Word)
  /-- the channel loop of `Tick()` from channel `c` on (R343) -/
  | tick (c : Nat)
deriving DecidableEq, Repr

/-- The events of R360 with the information each records. `EV7` is not logged. -/
inductive Event where
  | ev1 (c : ChanId) (offset word : Word)
  | ev2 (handle : Word) (c : ChanId)
  | ev3 (c : ChanId) (s : SubId) (cls mthd param : Word)
  | ev4 (c : ChanId) (s : SubId) (cls mthd param : Word)
  | ev5 (c : ChanId) (offset word : Word)
  | ev6 (c : ChanId) (offset : Word)
  | ev8 (c : ChanId) (offset word : Word)
  | ev9 (c : ChanId) (s : SubId) (engine mthd param : Word)
  | ev10 (c : ChanId) (mthd param : Word)
  | ev11 (c : ChanId) (mthd param : Word)
deriving DecidableEq, Repr

/-- The records of the dirty sink (R250). -/
inductive DirtyRec where
  | rect (x y w h : Nat)
  | bytes (o pitch : Word) (len lines : Nat)
deriving DecidableEq, Repr

/-- A request on the system memory port (R9 (b), R97). -/
inductive SysReq where
  | read (a : Word) (n : Nat)
  | write (a : Word) (n : Nat) (v : Word)
deriving DecidableEq, Repr

/-- What the block answers to another agent. -/
inductive Reply where
  | value (data : BitVec 64)
  | pend (e : Option PendEntry)
  | snapshot (b : Block)
deriving DecidableEq, Repr

/-- The machine: the block (10_state.md) and the model's own fields. -/
structure State extends Block where
  /-- construction parameters (R6); no step changes them (log entry 2) -/
  cfg : Config
  /-- what is in progress inside the current access or tick (log entry 8) -/
  tasks : List Task
  /-- what the other agents will do, in order (log entry 7) -/
  inputs : List Input
  /-- coming answers of the oracle `dispatch_fail`; when there are none, `no` (R195, log entry 6) -/
  failIn : List FailMode
  /-- number of system memory reads so far (log entry 4) -/
  sysReads : Nat
  /-- number of clock readings so far (log entry 5) -/
  clockReads : Nat
  /-- the last time read (R194: the clock does not decrease; log entry 5) -/
  clockLast : BitVec 64
  /-- the log output (R360) -/
  events : List Event
  /-- the dirty sink (R250) -/
  dirty : List DirtyRec
  /-- the system memory port (R97, R98) -/
  sysBus : List SysReq
  /-- the levels presented to the interrupt-line sink (R374, R376) -/
  irqOut : List Bool
  /-- answers to host reads, `PendTake` and snapshots -/
  replies : List Reply
deriving DecidableEq, Repr

/-! ## Reasons to stop -/

/-- Faults. There is none: "The hardware raises no synchronous exception, trap or fault" (R361). -/
inductive Fault where
deriving DecidableEq, Repr

/-- Refusals. -/
inductive Refusal where
  /-- Raised by `exec` for an instruction that has no meaning yet, and by nothing else; no arm raises it now. Safe. -/
  | notModelled (mnemonic : String)
deriving DecidableEq, Repr

/-! ## Reset -/

/-- A subchannel after reset (R41). -/
def Subchannel.reset : Subchannel := { object := 0, engine := 0, notifier := 0 }

/-- A channel record after reset: "all channel/subchannel state zeroed at reset" (R57, R400). -/
def Channel.reset : Channel where
  remaining := 0
  subc := 0
  mthd := 0
  ni := false
  subActive := false
  subReturn := 0
  sub := Vector.replicate 8 Subchannel.reset
  notifyArmed := false
  notifyType := 0
  clip := { point := 0, size := 0 }
  rop := 0
  patt := { color0 := 0, color1 := 0, mono := Vector.replicate 2 0, idx := Vector.replicate 16 0 }
  surf := { srcObj := 0, dstObj := 0, format := 0, pitch := 0, ofsSrc := 0, ofsDst := 0 }
  gdi := { color := 0, point := 0, clip0 := 0, clip1 := 0, rect0 := 0 }
  ifc := { state := .configuring, point := 0, sizeOut := 0, sizeIn := 0, buf := [], need := 0, fastOff := 0 }
  blit := { pointIn := 0, pointOut := 0 }
  m2mf := { srcObj := 0, dstObj := 0, ofsIn := 0, ofsOut := 0, pitchIn := 0, pitchOut := 0, lineLen := 0,
            lineCount := 0, format := 0, notify := 0 }
  d3d := { colorObj := 0, zetaObj := 0, format := 0, pitch := 0, colorOfs := 0, zetaOfs := 0, zclear := 0,
           cclear := 0, rectH := 0, rectV := 0 }

/-- The block after reset over a device memory that reset does not change (R400). -/
def Block.reset (dev : Memory) : Block where
  live := { put := 0, get := 0, ref := 0, dmaInstance := 0, semaphore := 0 }
  ctl := { curchan := 0, ramht := 0, ramfc := 0, acquire := 0, intrEn := 0, busIntr := 0, busIntrEn := 0,
           fifoIntr := 0, fifoIntrEn := 0, grIntr := 0, grNsource := 0, grIntrEn := 0, crtcIntr := 0,
           crtcIntrEn := 0 }
  chans := Vector.replicate 32 Channel.reset
  dev := dev
  pendq := []

/-- The machine at power-on with given construction parameters and device memory: "a model takes the initial content as
an argument" (R52, R400). -/
def State.powerOn (cfg : Config) (dev : Memory) : State where
  toBlock := Block.reset dev
  cfg := cfg
  tasks := []
  inputs := []
  failIn := []
  sysReads := 0
  clockReads := 0
  clockLast := 0
  events := []
  dirty := []
  sysBus := []
  irqOut := []
  replies := []

/-- The machine right after reset: the default parameters with `LAYOUT = PRE` (R6, D1), every register 0, memory with
nothing listed (R400; log entries 1, 2). -/
def State.reset : State := State.powerOn (Config.ofLayout .pre) []

end Sys2Proof.Machine
end

