-- ==== Sys2Proof/Machine/Ops.lean ====
section
/-! DEFINITION. The named operations over memory, records and outputs: the accessors of 20_memory.md R73 to R77, the
address translator R84 to R86, the hash resolver R91 to R94, the channel records, the event log and the dirty sink. The
hardware takes no exception and has no return from one (60_exceptions.md R361); what stands in their place, the dispatch
failure of R161, is `dispatchFailed` below. -/
namespace Sys2Proof.Machine

open Sys2Proof

/-! ## Device memory, byte by byte -/

/-- The byte at an address. -/
def getByte : Memory → Nat → Byte
  | [], _ => memFill
  | (k, v) :: m, a => if a < k then memFill else if a = k then v else getByte m a

/-- Store a byte; the canonical form is kept (a byte equal to what an unlisted address reads as is not listed). -/
def setByte : Memory → Nat → Byte → Memory
  | [], a, v => if v = memFill then [] else [(a, v)]
  | (k, x) :: m, a, v =>
    if a < k then (if v = memFill then (k, x) :: m else (a, v) :: (k, x) :: m)
    else if a = k then (if v = memFill then m else (a, v) :: m)
    else (k, x) :: setByte m a v

/-- The little-endian number in `n` bytes from `a` on (R71). -/
def readLE (m : Memory) (a : Nat) : Nat → Nat
  | 0 => 0
  | n + 1 => (getByte m a).toNat + 256 * readLE m (a + 1) n

/-- Store the `n` low bytes of `v` from `a` on, little-endian (R71). -/
def writeLE (m : Memory) (a : Nat) : Nat → Nat → Memory
  | 0, _ => m
  | n + 1, v => writeLE (setByte m a (BitVec.ofNat 8 v)) (a + 1) n (v / 256)

/-- Whether an access of `n` bytes at `a` lies wholly inside device memory: `(int) a + n <= VRAM_SIZE` (R73, R74). -/
def inVram (cfg : Config) (a : Word) (n : Nat) : Bool := decide (a.toNat + n ≤ cfg.vramSize)

/-- `DevRead(a, n)` (R73): a read not wholly in range is 0. -/
def devRead (s : State) (a : Word) (n : Nat) : Word :=
  if inVram s.cfg a n then BitVec.ofNat 32 (readLE s.dev a.toNat n) else 0

/-- `DevWrite(a, n, v)` (R74): a write not wholly in range is dropped whole. -/
def devWrite (a : Word) (n : Nat) (v : Word) (s : State) : State :=
  if inVram s.cfg a n then { s with dev := writeLE s.dev a.toNat n v.toNat } else s

/-! ## System memory (the environment's) -/

/-- `SysRead(a, n)` (R76): the environment answers; the value is free (log entry 4). -/
def sysRead (a : Word) (n : Nat) (s : State) : Word × State :=
  (Config.sysReadValue s.sysReads &&& byteMask n,
   { s with sysReads := s.sysReads + 1, sysBus := s.sysBus ++ [.read a n] })

/-- `SysWrite(a, n, v)` (R76): a request to the environment. -/
def sysWrite (a : Word) (n : Nat) (v : Word) (s : State) : State :=
  { s with sysBus := s.sysBus ++ [.write a n (v &&& byteMask n)] }

/-- The memory an address lies in (R77). -/
inductive Space where
  | dev | sys
deriving DecidableEq, Repr

/-- `MemRead` (R77). -/
def memRead (sp : Space) (a : Word) (n : Nat) (s : State) : Word × State :=
  match sp with
  | .dev => (devRead s a n, s)
  | .sys => sysRead a n s

/-- `MemWrite` (R77). -/
def memWrite (sp : Space) (a : Word) (n : Nat) (v : Word) (s : State) : State :=
  match sp with
  | .dev => devWrite a n v s
  | .sys => sysWrite a n v s

/-! ## The DMA address translator -/

/-- `DmaXlate(obj, off)` (R84); it writes nothing and checks nothing (R88). -/
def dmaXlate (s : State) (obj off : Word) : Space × Word :=
  let word0 := devRead s obj 4
  let space := if field 17 17 word0 = 1 then Space.sys else Space.dev
  let adjust := word0 >>> 20
  let addr :=
    if field 13 13 word0 = 1 then
      let word2 := devRead s (obj + 8) 4
      (word2 &&& pageMask) + adjust + off
    else
      let adj := off + adjust
      let page := adj >>> 12
      let pageOff := adj &&& 0xFFF
      let entry := devRead s (obj + 8 + page * 4) 4
      (entry &&& pageMask) ||| pageOff
  (space, addr)

/-- `DmaRead(obj, off, n)`: one translation, for the first byte (R85). -/
def dmaRead (obj off : Word) (n : Nat) (s : State) : Word × State :=
  memRead (dmaXlate s obj off).1 (dmaXlate s obj off).2 n s

/-- `DmaWrite(obj, off, n, v)` (R86). -/
def dmaWrite (obj off : Word) (n : Nat) (v : Word) (s : State) : State :=
  memWrite (dmaXlate s obj off).1 (dmaXlate s obj off).2 n v s

/-! ## Channel records -/

/-- `cur`, the current channel: `REG.FIFO_CURCHAN[4:0]` (R11, R23). -/
def State.cur (s : State) : ChanId := s.ctl.curchan.setWidth 5

/-- `ch[c]` (R11). -/
def State.chan (s : State) (c : ChanId) : Channel := s.chans[c.toNat]'c.isLt

/-- `ch[c] <- x`. -/
def State.setChan (s : State) (c : ChanId) (x : Channel) : State :=
  { s with chans := s.chans.set c.toNat x c.isLt }

/-- The record of the current channel. -/
def State.ch (s : State) : Channel := s.chan s.cur

/-- Change the record of the current channel. -/
def modCh (f : Channel → Channel) (s : State) : State := s.setChan s.cur (f s.ch)

/-- `ch.sub[k]` (R11). -/
def Channel.subAt (x : Channel) (k : SubId) : Subchannel := x.sub[k.toNat]'k.isLt

/-- `ch.sub[k] <- y`. -/
def Channel.setSub (x : Channel) (k : SubId) (y : Subchannel) : Channel :=
  { x with sub := x.sub.set k.toNat y k.isLt }

/-- The current subchannel's binding, `ch[cur].sub[ch[cur].subc]`. -/
def State.sc (s : State) : Subchannel := s.ch.subAt s.ch.subc

/-- Change the current subchannel's binding. -/
def modSc (f : Subchannel → Subchannel) (s : State) : State :=
  modCh (fun x => x.setSub x.subc (f (x.subAt x.subc))) s

/-- A channel id as a word. -/
def chidWord (c : ChanId) : Word := c.setWidth 32

/-! ## Outputs and inputs of the environment -/

/-- `event EVn(info)`: recorded on the log, nothing else (R12, R360). -/
def logEvent (e : Event) (s : State) : State := { s with events := s.events ++ [e] }

/-- `Dirty` and `DirtyBytes` (R250). -/
def markDirty (r : DirtyRec) (s : State) : State := { s with dirty := s.dirty ++ [r] }

/-- `Now()` (R194): the environment's clock, free but for not decreasing (log entry 5). -/
def now (s : State) : BitVec 64 × State :=
  let v := Config.clockValue s.clockReads
  let t := if s.clockLast ≤ v then v else s.clockLast
  (t, { s with clockReads := s.clockReads + 1, clockLast := t })

/-- The next answer of the oracle `dispatch_fail` (R195): `no` unless the environment says otherwise (log entry 6). -/
def State.failNext (s : State) : FailMode := s.failIn.headD .no

/-! ## The object hash resolver -/

/-- `ctx_chid` (R92). -/
def ctxChid (cfg : Config) (ctx : Word) : Word := cfg.ctx.chid.get ctx

/-- `ctx_eng` (R92). -/
def ctxEng (cfg : Config) (ctx : Word) : Word := cfg.ctx.eng.get ctx

/-- `ctx_obj` (R92): stored shifted right by 4. -/
def ctxObj (cfg : Config) (ctx : Word) : Word := cfg.ctx.obj.get ctx <<< 4

/-- `HT_BASE` (R29, R91), in the configured field. -/
def htBase (s : State) : Word := s.cfg.ramht.base.address s.ctl.ramht

/-- `HT_BITS` (R29, R91), from the configured field. -/
def htBits (s : State) : Nat := (s.cfg.ramht.size.get s.ctl.ramht).toNat + 9

/-- The exclusive-or fold of R93; the first argument bounds the number of chunks (a word has at most 32). -/
def xorFold (bits : Nat) : Nat → Word → Word → Word
  | 0, h, _ => h
  | k + 1, h, x =>
    if x = 0 then h else xorFold bits k (h ^^^ (x &&& BitVec.ofNat 32 (2 ^ bits - 1))) (x >>> bits)

/-- `h` of R93. -/
def hashOf (bits : Nat) (handle : Word) (c : ChanId) : Word :=
  xorFold bits 32 0 handle ^^^ ((chidWord c &&& 0xF) <<< (bits - 4))

/-- The probe loop of R94 from byte offset `it`, for at most so many slots. -/
def hashProbe (s : State) (handle : Word) (c : ChanId) : Nat → Nat → Option (Word × Word)
  | 0, _ => none
  | k + 1, it =>
    let next := if it + 8 ≥ 2 ^ htBits s * 8 then 0 else it + 8
    if devRead s (htBase s + BitVec.ofNat 32 it) 4 = handle then
      let ctx := devRead s (htBase s + BitVec.ofNat 32 it + 4) 4
      if ctxChid s.cfg ctx = chidWord c then some (ctxObj s.cfg ctx, ctxEng s.cfg ctx)
      else hashProbe s handle c k next
    else hashProbe s handle c k next

/-- `HashLookup(handle, chid)` without its event (R94): every slot once, from `start` on, with wraparound; the object
address and the engine id of the first match. -/
def hashFind (s : State) (handle : Word) (c : ChanId) : Option (Word × Word) :=
  hashProbe s handle c (2 ^ htBits s) ((hashOf (htBits s) handle c).toNat * 8)

/-- `HashLookup(handle, chid)` on the current channel (R94): a failed lookup records `EV2`. -/
def hashLookup (handle : Word) (s : State) : Option (Word × Word) × State :=
  match hashFind s handle s.cur with
  | some r => (some r, s)
  | none => (none, logEvent (.ev2 handle s.cur) s)

/-- `Resolve(c, m, p)` (R186): a parameter of a method in the handle range is a handle, which its object address
replaces; a failed lookup leaves it unchanged. `m` is the number in the word, the device's. -/
def resolve (m p : Word) (s : State) : Word × State :=
  if s.cfg.mthds.takesHandle m then
    match hashLookup p s with
    | (some (obj, _), s') => (obj, s')
    | (none, s') => (p, s')
  else (p, s)

/-- The class id of the object bound to the current subchannel (R181), read from device memory at every dispatch. -/
def State.classId (s : State) : Word := devRead s s.sc.object 4 &&& s.cfg.classMask

/-- The handler table a class id selects (R191, R132); `none`: none of the nine. -/
def clsOf (cfg : Config) (id : Word) : Option Cls := (cfg.clsIds.find? (fun e => e.1 == id)).map (·.2)

/-! ## Loops -/

/-- `for i in 0 .. n-1 do`, ascending, not at all when `n = 0` (R13). -/
def loop : Nat → (Nat → State → State) → State → State
  | 0, _, s => s
  | n + 1, f, s => f n (loop n f s)

/-! ## The parser's bookkeeping of a parameter word -/

/-- The method number after an increment (R160, parameter `MTHD_WRAP`). -/
def nextMthd (cfg : Config) (m : Word) : Word := if cfg.mthdWrap then (m + 1) &&& 0x7FF else m + 1

/-- The end of a parameter word that was dispatched (R160): the method advances unless `ni`, `remaining` decreases. -/
def Channel.advance (cfg : Config) (x : Channel) : Channel :=
  { x with mthd := if x.ni then x.mthd else nextMthd cfg x.mthd, remaining := x.remaining - 1 }

/-- See `Channel.advance`. -/
def advanceParam (s : State) : State := modCh (Channel.advance s.cfg) s

/-- Leave the drain loop (R151). -/
def endDrain (s : State) : State :=
  { s with tasks := match s.tasks with
                    | .drain :: ts => ts
                    | ts => ts }

/-- Dispatch failure (R160, R161): `EV8`, the cursor goes back to the word, the drain ends; nothing is rolled back. -/
def dispatchFailed (p : Word) (s : State) : State :=
  let s1 := logEvent (.ev8 s.cur (s.live.get - 4) p) s
  endDrain { s1 with live := { s1.live with get := s1.live.get - 4 } }

/-- `Param(c, w)` (R160) around the effects of one dispatch, with the oracle of R195: `before` fails with no effect,
`after` performs all effects and then fails. -/
def paramWord (p : Word) (effects : State → State) (s : State) : State :=
  let s1 := { s with failIn := s.failIn.tail }
  match s.failNext with
  | .no => advanceParam (effects s1)
  | .before => dispatchFailed p s1
  | .after => dispatchFailed p (effects s1)

end Sys2Proof.Machine
end

