-- ==== Sys2Proof/Machine/Control.lean ====
section
/-! DEFINITION. The control words (40_command_words.md R154 to R159). Each meaning runs after the parser has advanced the
cursor past the word (R152): `live.get` is already the offset of the next word. -/
namespace Sys2Proof.Machine

open Sys2Proof

/-- `GET <- target`. -/
def setGet (target : Word) (s : State) : State := { s with live := { s.live with get := target } }

/-- The effect of a method header (R158). -/
def loadHeader (ni : Bool) (subc : SubId) (mthd : Mthd) (count : BitVec 11) (s : State) : State :=
  modCh (fun x => { x with subc := subc, mthd := mthd.setWidth 32, remaining := count, ni := ni }) s

/-- The effect of a malformed control word: `EV1`, nothing else (R159). -/
def malformed (w : Word) (s : State) : State := logEvent (.ev1 s.cur (s.live.get - 4) w) s

/-- `JMPL target` (R154). -/
def execJmpl (target : Word) (s : State) : Host.Outcome State Fault Refusal := .next (setGet target s)

/-- `JMP target` (R155). -/
def execJmp (target : Word) (s : State) : Host.Outcome State Fault Refusal := .next (setGet target s)

/-- `CALL target` (R156): one level; a nested call is logged and ignored. -/
def execCall (target : Word) (s : State) : Host.Outcome State Fault Refusal :=
  if s.ch.subActive then .next (logEvent (.ev5 s.cur (s.live.get - 4) (target ||| 2)) s)
  else .next (setGet target (modCh (fun x => { x with subReturn := s.live.get, subActive := true }) s))

/-- `RET` (R157): an unmatched return is logged and ignored. -/
def execRet (s : State) : Host.Outcome State Fault Refusal :=
  if s.ch.subActive then .next (modCh (fun x => { x with subActive := false }) (setGet s.ch.subReturn s))
  else .next (logEvent (.ev6 s.cur (s.live.get - 4)) s)

/-- `HDR subc, mthd, count` (R158). -/
def execHdr (subc : SubId) (mthd : Mthd) (count : BitVec 11) (s : State) : Host.Outcome State Fault Refusal :=
  .next (loadHeader false subc mthd count s)

/-- `HDR.NI subc, mthd, count` (R158). -/
def execHdrNi (subc : SubId) (mthd : Mthd) (count : BitVec 11) (s : State) : Host.Outcome State Fault Refusal :=
  .next (loadHeader true subc mthd count s)

/-- Malformed word, `w[1:0] = 11` (R159). -/
def execBadLow11 (w : Word) (s : State) : Host.Outcome State Fault Refusal := .next (malformed w s)

/-- Malformed word, bit 31 (R159). -/
def execBadB31 (w : Word) (s : State) : Host.Outcome State Fault Refusal := .next (malformed w s)

/-- Malformed word, `w[31:29] = 011` (R159). -/
def execBadB3029 (w : Word) (s : State) : Host.Outcome State Fault Refusal := .next (malformed w s)

/-- Malformed word, bit 16 (R159). -/
def execBadB16 (w : Word) (s : State) : Host.Outcome State Fault Refusal := .next (malformed w s)

/-- Malformed word, bit 17 (R159). -/
def execBadB17 (w : Word) (s : State) : Host.Outcome State Fault Refusal := .next (malformed w s)

end Sys2Proof.Machine
end

