-- ==== Sys2Proof/WellFormed.lean ====
section
/-! DEFINITION. Which terms of `Instr` a row of spec/opcode_table.json stands behind: the fields a constructor carries
must lie where the row's mask and match put them. -/
namespace Sys2Proof

/-- `w & mask = match`, the test of a control-word row (R121, R133). -/
def Word.fits (mask pat w : Word) : Bool := w &&& mask == pat

/-- `m & mask = match`, the test of a method row on the 11-bit method number (R133). -/
def Mthd.fits (mask pat m : Mthd) : Bool := m &&& mask == pat

/-- An instruction some word (and method number) of its row stands for. -/
def Instr.wf : Instr → Bool
  | .jmpl t => Word.fits 0xE0000003 0 t
  | .jmp t => Word.fits 0x00000003 0 t
  | .call t => Word.fits 0x00000003 0 t
  | .badLow11 w => Word.fits 0x00000003 0x00000003 w
  | .badB31 w => Word.fits 0x80000003 0x80000000 w
  | .badB3029 w => Word.fits 0xE0000003 0x60000000 w
  | .badB16 w => Word.fits 0xA0010003 0x00010000 w
  | .badB17 w => Word.fits 0xA0030003 0x00020000 w && w != 0x00020000
  | .globalUndef002 m _ => Mthd.fits 0x7FE 0x002 m
  | .globalUndef004 m _ => Mthd.fits 0x7FC 0x004 m
  | .globalUndef008 m _ => Mthd.fits 0x7F8 0x008 m
  | .globalUndef010 m _ => Mthd.fits 0x7FC 0x010 m
  | .globalUndef016 m _ => Mthd.fits 0x7FE 0x016 m
  | .globalUndef018 m _ => Mthd.fits 0x7F8 0x018 m
  | .globalUndef020 m _ => Mthd.fits 0x7E0 0x020 m
  | .ifcData100 m _ => Mthd.fits 0x700 0x100 m
  | .ifcData200 m _ => Mthd.fits 0x600 0x200 m
  | .ifcData400 m _ => Mthd.fits 0x400 0x400 m
  | .ret | .hdr _ _ _ | .hdrNi _ _ _ | .data _ | .bind _ | .globalUndef001 _ | .globalUndef015 _ | .refCnt _
  | .notify _ | .setNotifier _ | .clipPoint _ | .clipSize _ | .rop _ | .pattColor0 _ | .pattColor1 _ | .pattMono0 _
  | .pattMono1 _ | .pattIdx _ _ | .surfDmaSrc _ | .surfDmaDst _ | .surfFormat _ | .surfPitch _ | .surfOfsSrc _
  | .surfOfsDst _ | .gdiColorA _ | .gdiUnclippedPoint _ _ | .gdiUnclippedSize _ _ | .gdiClipPoint0 _
  | .gdiClipPoint1 _ | .gdiColorB _ | .gdiClippedPoint0 _ _ | .gdiClippedPoint1 _ _ | .ifcPoint _ | .ifcSizeOut _
  | .ifcSizeIn _ | .blitPointIn _ | .blitPointOut _ | .blitSize _ | .m2mfDmaIn _ | .m2mfDmaOut _ | .m2mfOfsIn _
  | .m2mfOfsOut _ | .m2mfPitchIn _ | .m2mfPitchOut _ | .m2mfLineLen _ | .m2mfLineCount _ | .m2mfFormat _
  | .m2mfBufferNotify _ | .d3dDmaColor _ | .d3dDmaZeta _ | .d3dSurfaceFormat _ | .d3dSurfacePitch _
  | .d3dColorOffset _ | .d3dZetaOffset _ | .d3dZclearValue _ | .d3dCclearValue _ | .d3dClear _ | .d3dClearRectH _
  | .d3dClearRectV _ => true

end Sys2Proof
end

