-- ==== Sys2Proof/Decode.lean ====
section
/-! DEFINITION. Decoding and encoding (30_encoding.md, spec/opcode_table.json). What a word is depends on the parse slot
(R120): in control mode its bits classify it (R121), in parameter mode the route and the method number select the method
row (R131, R133, R189) and every bit of the word is the parameter (R129). -/
namespace Sys2Proof

/-! ## Control mode -/

/-- R121: the first line of the table that matches; `CW.BAD` is what remains, in the five rows of R133. -/
def decodeControl (w : Word) : Instr :=
  if w &&& 0xE0000003 = 0x20000000 then .jmpl (w &&& 0x1FFFFFFF)
  else if w &&& 0x00000003 = 0x00000001 then .jmp (w &&& 0xFFFFFFFC)
  else if w &&& 0x00000003 = 0x00000002 then .call (w &&& 0xFFFFFFFC)
  else if w = 0x00020000 then .ret
  else if w &&& 0xA0030003 = 0 then
    let subc : SubId := (field 15 13 w).setWidth 3
    let mthd : Mthd := (field 12 2 w).setWidth 11
    let count : BitVec 11 := (field 28 18 w).setWidth 11
    if field 30 30 w = 0 then .hdr subc mthd count else .hdrNi subc mthd count
  else if w &&& 0x00000003 = 0x00000003 then .badLow11 w
  else if w &&& 0x80000003 = 0x80000000 then .badB31 w
  else if w &&& 0xE0000003 = 0x60000000 then .badB3029 w
  else if w &&& 0xA0010003 = 0x00010000 then .badB16 w
  else .badB17 w

/-! ## Method rows -/

/-- A method row of the opcode table: `(mthd & mask) = pat` selects it (R133). -/
structure MethodRow where
  mask : Mthd
  pat : Mthd
  build : Mthd → Word → Instr

/-- Whether the row is selected by the method number. -/
def MethodRow.hit (r : MethodRow) (m : Mthd) : Bool := Mthd.fits r.mask r.pat m

/-- A row that one method number selects. -/
def oneMthd (m : Mthd) (build : Word → Instr) : MethodRow := ⟨0x7FF, m, fun _ p => build p⟩

/-- The rows of class `any` below `0x040` (R182, R184, R185), handled before engine routing. -/
def globalRows : List MethodRow :=
  [ oneMthd 0x000 .bind, oneMthd 0x014 .refCnt,
    oneMthd 0x001 .globalUndef001, ⟨0x7FE, 0x002, .globalUndef002⟩, ⟨0x7FC, 0x004, .globalUndef004⟩,
    ⟨0x7F8, 0x008, .globalUndef008⟩, ⟨0x7FC, 0x010, .globalUndef010⟩, oneMthd 0x015 .globalUndef015,
    ⟨0x7FE, 0x016, .globalUndef016⟩, ⟨0x7F8, 0x018, .globalUndef018⟩, ⟨0x7E0, 0x020, .globalUndef020⟩ ]

/-- The rows of class `any` on the graphics engine, before class dispatch (R187, R188). -/
def graphicsRows : List MethodRow := [ oneMthd 0x041 .notify, oneMthd 0x060 .setNotifier ]

/-- R211, R212 -/
def clipRows : List MethodRow := [ oneMthd 0x0C0 .clipPoint, oneMthd 0x0C1 .clipSize ]

/-- R215 -/
def ropRows : List MethodRow := [ oneMthd 0x0C0 .rop ]

/-- The index `i` of `0x100 + i` (R221). -/
def idx4 (m : Mthd) : BitVec 4 := m.setWidth 4

/-- The index `i` of `0x100 + 2i` and its like (R253, R254, R258, R259). -/
def idx5 (m : Mthd) : BitVec 5 := (m >>> 1).setWidth 5

/-- R217 to R221 -/
def pattRows : List MethodRow :=
  [ oneMthd 0x0C4 .pattColor0, oneMthd 0x0C5 .pattColor1, oneMthd 0x0C6 .pattMono0, oneMthd 0x0C7 .pattMono1,
    ⟨0x7F0, 0x100, fun m p => .pattIdx (idx4 m) p⟩ ]

/-- R224 to R229 -/
def surfRows : List MethodRow :=
  [ oneMthd 0x061 .surfDmaSrc, oneMthd 0x062 .surfDmaDst, oneMthd 0x0C0 .surfFormat, oneMthd 0x0C1 .surfPitch,
    oneMthd 0x0C2 .surfOfsSrc, oneMthd 0x0C3 .surfOfsDst ]

/-- R252 to R259 -/
def gdiRows : List MethodRow :=
  [ oneMthd 0x0FF .gdiColorA,
    ⟨0x7C1, 0x100, fun m p => .gdiUnclippedPoint (idx5 m) p⟩,
    ⟨0x7C1, 0x101, fun m p => .gdiUnclippedSize (idx5 m) p⟩,
    oneMthd 0x17D .gdiClipPoint0, oneMthd 0x17E .gdiClipPoint1, oneMthd 0x17F .gdiColorB,
    ⟨0x7C1, 0x180, fun m p => .gdiClippedPoint0 (idx5 m) p⟩,
    ⟨0x7C1, 0x181, fun m p => .gdiClippedPoint1 (idx5 m) p⟩ ]

/-- R262 to R265 -/
def ifcRows : List MethodRow :=
  [ oneMthd 0x0C1 .ifcPoint, oneMthd 0x0C2 .ifcSizeOut, oneMthd 0x0C3 .ifcSizeIn,
    ⟨0x700, 0x100, .ifcData100⟩, ⟨0x600, 0x200, .ifcData200⟩, ⟨0x400, 0x400, .ifcData400⟩ ]

/-- R272 to R274 -/
def blitRows : List MethodRow :=
  [ oneMthd 0x0C0 .blitPointIn, oneMthd 0x0C1 .blitPointOut, oneMthd 0x0C2 .blitSize ]

/-- R277 to R286 -/
def m2mfRows : List MethodRow :=
  [ oneMthd 0x061 .m2mfDmaIn, oneMthd 0x062 .m2mfDmaOut, oneMthd 0x0C3 .m2mfOfsIn, oneMthd 0x0C4 .m2mfOfsOut,
    oneMthd 0x0C5 .m2mfPitchIn, oneMthd 0x0C6 .m2mfPitchOut, oneMthd 0x0C7 .m2mfLineLen,
    oneMthd 0x0C8 .m2mfLineCount, oneMthd 0x0C9 .m2mfFormat, oneMthd 0x0CA .m2mfBufferNotify ]

/-- R289 to R299 -/
def d3dRows : List MethodRow :=
  [ oneMthd 0x065 .d3dDmaColor, oneMthd 0x066 .d3dDmaZeta, oneMthd 0x082 .d3dSurfaceFormat,
    oneMthd 0x083 .d3dSurfacePitch, oneMthd 0x084 .d3dColorOffset, oneMthd 0x085 .d3dZetaOffset,
    oneMthd 0x763 .d3dZclearValue, oneMthd 0x764 .d3dCclearValue, oneMthd 0x765 .d3dClear,
    oneMthd 0x766 .d3dClearRectH, oneMthd 0x767 .d3dClearRectV ]

/-- The handler tables (R196). -/
def classRows : Cls → List MethodRow
  | .clip => clipRows
  | .rop => ropRows
  | .patt => pattRows
  | .surf2d => surfRows
  | .gdi => gdiRows
  | .ifc => ifcRows
  | .blit => blitRows
  | .m2mf => m2mfRows
  | .d3d => d3dRows

/-- The row of a list that a method number selects, with its parameter; a number at or above `0x800` selects none
(R131, R133). -/
def selectRow (rows : List MethodRow) (m p : Word) : Option Instr :=
  if m.toNat < 0x800 then
    let m11 : Mthd := m.setWidth 11
    (rows.find? (·.hit m11)).map (fun r => r.build m11 p)
  else none

/-! ## Parameter mode -/

/-- A parameter word: the method row that R180, R189 and R191 select; where they select none, the row `DATA`. -/
def decodeParam (r : Route) (m p : Word) : Instr :=
  if m.toNat < 0x040 then (selectRow globalRows m p).getD (.data p)
  else
    match r with
    | .graphics cls =>
      match selectRow graphicsRows m p with
      | some i => i
      | none =>
        match cls with
        | some c => (selectRow (classRows c) m p).getD (.data p)
        | none => .data p
    | .software => .data p
    | .unknownEngine => .data p

/-- The instruction a word is in a parse slot (R120). It is total: every word is some row's. -/
def decodeWord (slot : Slot) (w : Word) : Instr :=
  match slot with
  | .control => decodeControl w
  | .param r m => decodeParam r m w
  | .noRow => .data w

/-- Why a byte sequence is no instruction: there is one length of command word, four bytes (R120). -/
inductive DecodeError where
  | fewerThanFourBytes
deriving DecidableEq, Repr

/-- The decoder on bytes as memory holds them (little-endian, R71): the instruction and the bytes after it. -/
def decodeBytes (slot : Slot) : List Byte → Except DecodeError (Instr × List Byte)
  | b0 :: b1 :: b2 :: b3 :: rest => .ok (decodeWord slot (wordOfBytes b0 b1 b2 b3), rest)
  | _ => .error .fewerThanFourBytes

/-! ## The encoder -/

/-- The parse slot of a class method: the graphics engine, the class, the method number. -/
def classSlot (c : Cls) (m : Mthd) : Slot := .param (.graphics (some c)) (m.setWidth 32)

/-- The parse slot of a method handled before engine routing; the route plays no part (R180). -/
def globalSlot (m : Mthd) : Slot := .param .software (m.setWidth 32)

/-- The parse slot of a method of the graphics engine handled before class dispatch; the class plays no part. -/
def graphicsSlot (m : Mthd) : Slot := .param (.graphics none) (m.setWidth 32)

/-- The method number `base + i` (R221). -/
def mthdIdx4 (base : Mthd) (i : BitVec 4) : Mthd := base + i.setWidth 11

/-- The method number `base + 2i` (R253 and its like). -/
def mthdIdx5 (base : Mthd) (i : BitVec 5) : Mthd := base + (i.setWidth 11 <<< 1)

/-- The parse slot in which an instruction stands. -/
def encodeSlot : Instr → Slot
  | .jmpl _ | .jmp _ | .call _ | .ret | .hdr _ _ _ | .hdrNi _ _ _ | .badLow11 _ | .badB31 _ | .badB3029 _
  | .badB16 _ | .badB17 _ => .control
  | .data _ => .param .software 0x040
  | .bind _ => globalSlot 0x000
  | .globalUndef001 _ => globalSlot 0x001
  | .globalUndef002 m _ | .globalUndef004 m _ | .globalUndef008 m _ | .globalUndef010 m _ => globalSlot m
  | .globalUndef015 _ => globalSlot 0x015
  | .globalUndef016 m _ | .globalUndef018 m _ | .globalUndef020 m _ => globalSlot m
  | .refCnt _ => globalSlot 0x014
  | .notify _ => graphicsSlot 0x041
  | .setNotifier _ => graphicsSlot 0x060
  | .clipPoint _ => classSlot .clip 0x0C0
  | .clipSize _ => classSlot .clip 0x0C1
  | .rop _ => classSlot .rop 0x0C0
  | .pattColor0 _ => classSlot .patt 0x0C4
  | .pattColor1 _ => classSlot .patt 0x0C5
  | .pattMono0 _ => classSlot .patt 0x0C6
  | .pattMono1 _ => classSlot .patt 0x0C7
  | .pattIdx i _ => classSlot .patt (mthdIdx4 0x100 i)
  | .surfDmaSrc _ => classSlot .surf2d 0x061
  | .surfDmaDst _ => classSlot .surf2d 0x062
  | .surfFormat _ => classSlot .surf2d 0x0C0
  | .surfPitch _ => classSlot .surf2d 0x0C1
  | .surfOfsSrc _ => classSlot .surf2d 0x0C2
  | .surfOfsDst _ => classSlot .surf2d 0x0C3
  | .gdiColorA _ => classSlot .gdi 0x0FF
  | .gdiUnclippedPoint i _ => classSlot .gdi (mthdIdx5 0x100 i)
  | .gdiUnclippedSize i _ => classSlot .gdi (mthdIdx5 0x101 i)
  | .gdiClipPoint0 _ => classSlot .gdi 0x17D
  | .gdiClipPoint1 _ => classSlot .gdi 0x17E
  | .gdiColorB _ => classSlot .gdi 0x17F
  | .gdiClippedPoint0 i _ => classSlot .gdi (mthdIdx5 0x180 i)
  | .gdiClippedPoint1 i _ => classSlot .gdi (mthdIdx5 0x181 i)
  | .ifcPoint _ => classSlot .ifc 0x0C1
  | .ifcSizeOut _ => classSlot .ifc 0x0C2
  | .ifcSizeIn _ => classSlot .ifc 0x0C3
  | .ifcData100 m _ | .ifcData200 m _ | .ifcData400 m _ => classSlot .ifc m
  | .blitPointIn _ => classSlot .blit 0x0C0
  | .blitPointOut _ => classSlot .blit 0x0C1
  | .blitSize _ => classSlot .blit 0x0C2
  | .m2mfDmaIn _ => classSlot .m2mf 0x061
  | .m2mfDmaOut _ => classSlot .m2mf 0x062
  | .m2mfOfsIn _ => classSlot .m2mf 0x0C3
  | .m2mfOfsOut _ => classSlot .m2mf 0x0C4
  | .m2mfPitchIn _ => classSlot .m2mf 0x0C5
  | .m2mfPitchOut _ => classSlot .m2mf 0x0C6
  | .m2mfLineLen _ => classSlot .m2mf 0x0C7
  | .m2mfLineCount _ => classSlot .m2mf 0x0C8
  | .m2mfFormat _ => classSlot .m2mf 0x0C9
  | .m2mfBufferNotify _ => classSlot .m2mf 0x0CA
  | .d3dDmaColor _ => classSlot .d3d 0x065
  | .d3dDmaZeta _ => classSlot .d3d 0x066
  | .d3dSurfaceFormat _ => classSlot .d3d 0x082
  | .d3dSurfacePitch _ => classSlot .d3d 0x083
  | .d3dColorOffset _ => classSlot .d3d 0x084
  | .d3dZetaOffset _ => classSlot .d3d 0x085
  | .d3dZclearValue _ => classSlot .d3d 0x763
  | .d3dCclearValue _ => classSlot .d3d 0x764
  | .d3dClear _ => classSlot .d3d 0x765
  | .d3dClearRectH _ => classSlot .d3d 0x766
  | .d3dClearRectV _ => classSlot .d3d 0x767

/-- The word of R126 and R135: `(ni << 30) | (count << 18) | (subc << 13) | (mthd << 2)`. -/
def headerWord (ni : Bool) (subc : SubId) (mthd : Mthd) (count : BitVec 11) : Word :=
  (if ni then 0x40000000 else 0) ||| (count.setWidth 32 <<< 18) ||| (subc.setWidth 32 <<< 13)
    ||| (mthd.setWidth 32 <<< 2)

/-- The word of an instruction (R122 to R129, R135). -/
def encodeWord : Instr → Word
  | .jmpl t => t ||| 0x20000000
  | .jmp t => t ||| 0x00000001
  | .call t => t ||| 0x00000002
  | .ret => 0x00020000
  | .hdr subc mthd count => headerWord false subc mthd count
  | .hdrNi subc mthd count => headerWord true subc mthd count
  | .badLow11 w | .badB31 w | .badB3029 w | .badB16 w | .badB17 w => w
  | .data p | .bind p | .globalUndef001 p | .globalUndef002 _ p | .globalUndef004 _ p | .globalUndef008 _ p
  | .globalUndef010 _ p | .globalUndef015 p | .globalUndef016 _ p | .globalUndef018 _ p | .globalUndef020 _ p
  | .refCnt p | .notify p | .setNotifier p | .clipPoint p | .clipSize p | .rop p | .pattColor0 p | .pattColor1 p
  | .pattMono0 p | .pattMono1 p | .pattIdx _ p | .surfDmaSrc p | .surfDmaDst p | .surfFormat p | .surfPitch p
  | .surfOfsSrc p | .surfOfsDst p | .gdiColorA p | .gdiUnclippedPoint _ p | .gdiUnclippedSize _ p
  | .gdiClipPoint0 p | .gdiClipPoint1 p | .gdiColorB p | .gdiClippedPoint0 _ p | .gdiClippedPoint1 _ p
  | .ifcPoint p | .ifcSizeOut p | .ifcSizeIn p | .ifcData100 _ p | .ifcData200 _ p | .ifcData400 _ p
  | .blitPointIn p | .blitPointOut p | .blitSize p | .m2mfDmaIn p | .m2mfDmaOut p | .m2mfOfsIn p | .m2mfOfsOut p
  | .m2mfPitchIn p | .m2mfPitchOut p | .m2mfLineLen p | .m2mfLineCount p | .m2mfFormat p | .m2mfBufferNotify p
  | .d3dDmaColor p | .d3dDmaZeta p | .d3dSurfaceFormat p | .d3dSurfacePitch p | .d3dColorOffset p
  | .d3dZetaOffset p | .d3dZclearValue p | .d3dCclearValue p | .d3dClear p | .d3dClearRectH p
  | .d3dClearRectV p => p

/-- An instruction as the stream holds it: the parse slot it stands in, and its word. -/
def encode (i : Instr) : Slot × Word := (encodeSlot i, encodeWord i)

/-! ## The opcode table's numbering -/

/-- The classes in the order in which a bare method number of the opcode table is given to one of them: the table order
of R196, with the class whose rows cover `0x100` to `0x7FF` last (log entry 14). -/
def tableClasses : List Cls := [.clip, .rop, .patt, .surf2d, .gdi, .blit, .m2mf, .d3d, .ifc]

/-- The class that a bare method number is read for. -/
def tableClass (m : Mthd) : Option Cls := tableClasses.find? (fun c => (classRows c).any (·.hit m))

/-- The parse slot a bare method number of the opcode table is read in. -/
def tableSlot (m : Mthd) : Slot := .param (.graphics (tableClass m)) (m.setWidth 32)

/-- What the decoder reads from the opcode table's numbering of a row. A row of 32 bits is a command word in control
mode. A method row has 11 bits (`format` M): they are the method number, and the word that carries the method is its
parameter, of which the row has no bit, so it is 0. -/
def decodeTableWord (nbits w : Nat) : Option Instr :=
  let slot := if nbits < 32 then tableSlot (BitVec.ofNat 11 w) else .control
  let word : Word := if nbits < 32 then 0 else BitVec.ofNat 32 w
  match decodeBytes slot (wordBytes word) with
  | .ok (i, _) => some i
  | .error _ => none

end Sys2Proof
end

