-- ==== Sys2Proof/Machine/Flags.lean ====
section
/-! DEFINITION. The hardware has no condition codes (10_state.md, "Flags at a glance"); its status and flag bits are the
interrupt bits, composed here by the IRQ aggregator (60_exceptions.md R370 to R374), and the acquire flag (R31). -/
namespace Sys2Proof.Machine

open Sys2Proof

/-- Whether a domain has an enabled pending cause (R370). -/
def domainPending (status enable : Word) : Bool := status &&& enable != 0

/-- `REG.INTR` (R32, R329): one configured bit for each domain; computed, not stored. DESIGN CHOICE (log entry 20): where
a configuration gives two domains one bit, which the defaults do not, it shows their or. -/
def intrWord (b : BitPlaces) (r : Ctl) : Word :=
  (if domainPending r.fifoIntr r.fifoIntrEn then bitMask b.intrFifo else 0)
    ||| (if domainPending r.grIntr r.grIntrEn then bitMask b.intrGr else 0)
    ||| (if domainPending r.crtcIntr r.crtcIntrEn then bitMask b.intrCrtc else 0)
    ||| (if domainPending r.busIntr r.busIntrEn then bitMask b.intrBus else 0)

/-- The interrupt line (R374), a function of the registers. -/
def irqLine (b : BitPlaces) (r : Ctl) : Bool :=
  (domainPending r.busIntr r.busIntrEn || domainPending r.fifoIntr r.fifoIntrEn
    || domainPending r.grIntr r.grIntrEn || domainPending r.crtcIntr r.crtcIntrEn)
  && r.intrEn.getLsbD b.globalEnable

/-- `UpdateIrq()` (R374): the level is presented to the sink. -/
def updateIrq (s : State) : State := { s with irqOut := s.irqOut ++ [irqLine s.cfg.bits s.ctl] }

/-- The FIFO-domain interrupt of a deferred method (R372), at its configured bit (R34). -/
def raiseFifo (s : State) : State :=
  updateIrq { s with ctl := { s.ctl with fifoIntr := s.ctl.fifoIntr ||| bitMask s.cfg.bits.fifoDeferred } }

/-- The graphics-domain interrupt of a notification (R193, R373), at its configured bits (R34, R36). -/
def raiseNotify (s : State) : State :=
  updateIrq { s with ctl := { s.ctl with grIntr := s.ctl.grIntr ||| bitMask s.cfg.bits.grNotify,
                                         grNsource := s.ctl.grNsource ||| bitMask s.cfg.bits.nsourceNotify } }

/-- The acquire flag (R31), `REG.FIFO_ACQUIRE[0]` with the default position. -/
def acquireFlag (b : BitPlaces) (r : Ctl) : Bool := r.acquire.getLsbD b.acquire

/-- The acquire flag is cleared (R343). -/
def clearAcquire (s : State) : State :=
  { s with ctl := { s.ctl with acquire := s.ctl.acquire &&& ~~~bitMask s.cfg.bits.acquire } }

end Sys2Proof.Machine
end

