-- ==== Sys2Proof/Machine/Methods.lean ====
section
/-! DEFINITION. The dispatcher's own methods (41_method_dispatch.md): binding, channel-global methods, the methods every
graphics class has, the notification step, and what becomes of a parameter word that no method row takes. A method has
its effects in a function `do…`, which `DATA` (Machine/Data.lean) runs too, and its meaning `exec…` puts the parser's
bookkeeping of R160 around them. -/
namespace Sys2Proof.Machine

open Sys2Proof

/-! ## Notification -/

/-- The completion record of R192: 16 bytes at offset 0 of the notifier, timestamp then two zero words. -/
def writeRecord (notifier : Word) (t : BitVec 64) (s : State) : State :=
  dmaWrite notifier 12 4 0 (dmaWrite notifier 8 4 0
    (dmaWrite notifier 4 4 ((t >>> 32).setWidth 32) (dmaWrite notifier 0 4 (t.setWidth 32) s)))

/-- `NotifyComplete(c, s)` (R192, R193). -/
def notifyComplete (s : State) : State :=
  if s.ch.notifyArmed then
    let (t, s1) := now s
    let s2 := modCh (fun x => { x with notifyArmed := false }) (writeRecord s.sc.notifier t s1)
    if s.ch.notifyType ≠ 0 then raiseNotify s2 else s2
  else s

/-- A class method of the graphics engine (R189): re-resolution of the parameter, the handler, the notification step. -/
def classMethod (m p : Word) (handler : Word → State → State) (s : State) : State :=
  notifyComplete (handler (resolve m p s).1 (resolve m p s).2)

/-! ## Object binding -/

/-- `LinkStore(obj, n)` (R183). -/
def linkStore (obj n : Word) (s : State) : State :=
  let w := devRead s (obj + 4) 4
  let link : Word := n >>> 4
  let high : Word := (link &&& 0xFFFF) <<< 16
  let w' := match s.cfg.layout with
    | .pre => (w &&& 0x0000FFFF) ||| high
    | .post => (w &&& 0xFFF00000) ||| (link &&& 0x000FFFFF)
  devWrite (obj + 4) 4 w' s

/-- `LinkLoad(obj)` (R183). -/
def linkLoad (obj : Word) (s : State) : Word :=
  let w := devRead s (obj + 4) 4
  match s.cfg.layout with
  | .pre => (w >>> 16) <<< 4
  | .post => (w &&& 0x000FFFFF) <<< 4

/-- The link store before a rebind: into the object being left, if its engine is the notify-capable one (R182). -/
def linkBefore (s : State) : State :=
  if s.sc.engine = s.cfg.engGr then linkStore s.sc.object s.sc.notifier s else s

/-- The link after a rebind, in the direction `BIND_POST_LINK` (R182). -/
def linkAfter (s : State) : State :=
  if s.sc.engine = s.cfg.engGr then
    match s.cfg.postLink with
    | .store => linkStore s.sc.object s.sc.notifier s
    | .load => modSc (fun y => { y with notifier := linkLoad s.sc.object s }) s
  else s

/-- The rebind itself (R182): an unresolved handle leaves object and engine as they are. -/
def rebind (p : Word) (s : State) : State :=
  match hashLookup p s with
  | (some (obj, eng), s') => modSc (fun y => { y with object := obj, engine := eng }) s'
  | (none, s') => s'

/-- The effects of `BIND` (R182). -/
def doBind (p : Word) (s : State) : State := linkAfter (rebind p (linkBefore s))

/-- `BIND` (R182). -/
def execBind (p : Word) (s : State) : Host.Outcome State Fault Refusal := .next (paramWord p (doBind p) s)

/-! ## Channel-global methods -/

/-- The effect of a channel-global method that is not defined: `EV10` (R185). -/
def doGlobalUndef (m p : Word) (s : State) : State := logEvent (.ev10 s.cur m p) s

/-- Method `0x001` (R185). -/
def execGlobalUndef001 (p : Word) (s : State) : Host.Outcome State Fault Refusal :=
  .next (paramWord p (doGlobalUndef 0x001 p) s)

/-- Methods `0x002`, `0x003` (R185). -/
def execGlobalUndef002 (m : Mthd) (p : Word) (s : State) : Host.Outcome State Fault Refusal :=
  .next (paramWord p (doGlobalUndef (m.setWidth 32) p) s)

/-- Methods `0x004` to `0x007` (R185). -/
def execGlobalUndef004 (m : Mthd) (p : Word) (s : State) : Host.Outcome State Fault Refusal :=
  .next (paramWord p (doGlobalUndef (m.setWidth 32) p) s)

/-- Methods `0x008` to `0x00F` (R185). -/
def execGlobalUndef008 (m : Mthd) (p : Word) (s : State) : Host.Outcome State Fault Refusal :=
  .next (paramWord p (doGlobalUndef (m.setWidth 32) p) s)

/-- Methods `0x010` to `0x013` (R185). -/
def execGlobalUndef010 (m : Mthd) (p : Word) (s : State) : Host.Outcome State Fault Refusal :=
  .next (paramWord p (doGlobalUndef (m.setWidth 32) p) s)

/-- Method `0x015` (R185). -/
def execGlobalUndef015 (p : Word) (s : State) : Host.Outcome State Fault Refusal :=
  .next (paramWord p (doGlobalUndef 0x015 p) s)

/-- Methods `0x016`, `0x017` (R185). -/
def execGlobalUndef016 (m : Mthd) (p : Word) (s : State) : Host.Outcome State Fault Refusal :=
  .next (paramWord p (doGlobalUndef (m.setWidth 32) p) s)

/-- Methods `0x018` to `0x01F` (R185). -/
def execGlobalUndef018 (m : Mthd) (p : Word) (s : State) : Host.Outcome State Fault Refusal :=
  .next (paramWord p (doGlobalUndef (m.setWidth 32) p) s)

/-- Methods `0x020` to `0x03F` (R185). -/
def execGlobalUndef020 (m : Mthd) (p : Word) (s : State) : Host.Outcome State Fault Refusal :=
  .next (paramWord p (doGlobalUndef (m.setWidth 32) p) s)

/-- The effect of `REF_CNT`: `REG.FIFO_REF <- p` (R184). -/
def doRefCnt (p : Word) (s : State) : State := { s with live := { s.live with ref := p } }

/-- `REF_CNT`, method `0x014` (R184). -/
def execRefCnt (p : Word) (s : State) : Host.Outcome State Fault Refusal := .next (paramWord p (doRefCnt p) s)

/-! ## Methods of every graphics class -/

/-- The effect of `NOTIFY`: arm a notification whose type is the parameter (R187), re-resolved like every parameter of
the graphics engine (R189); the completion step does not follow it. -/
def doNotify (p : Word) (s : State) : State :=
  let m := s.cfg.mthds.notify.setWidth 32
  modCh (fun x => { x with notifyArmed := true, notifyType := (resolve m p s).1 }) (resolve m p s).2

/-- `NOTIFY`, method `0x041` (R187). -/
def execNotify (p : Word) (s : State) : Host.Outcome State Fault Refusal := .next (paramWord p (doNotify p) s)

/-- The effect of `SET_NOTIFIER`: the subchannel's notifier is the resolved object (R188); the completion step does not
follow it. -/
def doSetNotifier (p : Word) (s : State) : State :=
  let m := s.cfg.mthds.setNotifier.setWidth 32
  modSc (fun y => { y with notifier := (resolve m p s).1 }) (resolve m p s).2

/-- `SET_NOTIFIER`, method `0x060` (R188). -/
def execSetNotifier (p : Word) (s : State) : Host.Outcome State Fault Refusal :=
  .next (paramWord p (doSetNotifier p) s)

/-! ## Parameter words that no method row takes -/

/-- `Software(c, s, m, p)` (R190): the method is queued as received, and a FIFO-domain interrupt raised (R372). -/
def doSoftware (p : Word) (s : State) : State :=
  raiseFifo { s with pendq := s.pendq ++ [{ chid := s.cur, subc := s.ch.subc, cls := s.classId, mthd := s.ch.mthd,
                                            param := p }] }

/-- An engine this block does not have: `EV9` (R189). -/
def doUnknownEngine (p : Word) (s : State) : State :=
  logEvent (.ev9 s.cur s.ch.subc s.sc.engine s.ch.mthd p) s

/-- A class that is none of the nine: `EV3` (R191); the parameter is the resolved one. -/
def doUnknownClass (p : Word) (s : State) : State := logEvent (.ev3 s.cur s.ch.subc s.classId s.ch.mthd p) s

/-- A method not in the table of its class: `EV4` (R191); the parameter is the resolved one. -/
def doUnknownMethod (p : Word) (s : State) : State := logEvent (.ev4 s.cur s.ch.subc s.classId s.ch.mthd p) s

end Sys2Proof.Machine
end

