-- ==== Sys2Proof/Machine/Operands.lean ====
section
/-! DEFINITION. Operand forms: pixel sizes and pixel addressing (42_state_classes.md R230, R231), element sizes of the
3D surfaces (43_raster_classes.md R301). The packings of R130 are in Machine/Bits.lean. -/
namespace Sys2Proof.Machine

open Sys2Proof

/-- The bytes that a table of format codes gives a code, 0 where it does not list it; the first entry of a code counts
(log entry 24). -/
def bytesIn (t : List (Word × ElemSize)) (f : Word) : Nat :=
  match t.find? (fun e => e.1 == f) with
  | some e => e.2.bytes
  | none => 0

/-- Bytes per pixel of a surface format code; 0 is an unknown format (R230). Code 4 is 2 bytes in every device, the
others are the configuration's. -/
def bpp (cfg : Config) (f : Word) : Nat := if f = 0x4 then 2 else bytesIn cfg.bpp f

/-- The bytes per pixel of the current channel's 2D surface (R231). -/
def State.bppNow (s : State) : Nat := bpp s.cfg s.ch.surf.format

/-- The source pitch of the 2D surface (R227). -/
def State.srcPitch (s : State) : Nat := s.cfg.packings.surfPitch.fst s.ch.surf.pitch

/-- The destination pitch of the 2D surface (R227). -/
def State.dstPitch (s : State) : Nat := s.cfg.packings.surfPitch.snd s.ch.surf.pitch

/-- A byte offset inside a DMA object from a natural number, modulo 2^32 (R231, R104). -/
def offset (base : Word) (n : Nat) : Word := base + BitVec.ofNat 32 n

/-- `SrcOff(c, x, y)` (R231). -/
def srcOff (s : State) (x y : Nat) : Word := offset s.ch.surf.ofsSrc (y * s.srcPitch + x * s.bppNow)

/-- `DstOff(c, x, y)` (R231). -/
def dstOff (s : State) (x y : Nat) : Word := offset s.ch.surf.ofsDst (y * s.dstPitch + x * s.bppNow)

/-- `GetPixel(c, x, y)` (R231). -/
def getPixel (x y : Nat) (s : State) : Word × State := dmaRead s.ch.surf.srcObj (srcOff s x y) s.bppNow s

/-- `PutPixel(c, x, y, v)` (R231): the low `8B` bits of `v`. -/
def putPixel (x y : Nat) (v : Word) (s : State) : State :=
  dmaWrite s.ch.surf.dstObj (dstOff s x y) s.bppNow (v &&& byteMask s.bppNow) s

/-- Bytes per colour element of a 3D surface: `cbytes` of R301 of the colour code in `d3d_format` (R291). -/
def cbytes (cfg : Config) (format : Word) : Nat := bytesIn cfg.clear.colorSizes (cfg.clear.colorCode.get format)

/-- Bytes per depth element of a 3D surface: `zbytes` of R301 of the depth code in `d3d_format` (R291). -/
def zbytes (cfg : Config) (format : Word) : Nat := bytesIn cfg.clear.zetaSizes (cfg.clear.zetaCode.get format)

end Sys2Proof.Machine
end

