-- ==== Sys2Proof/Machine/Blit.lean ====
section
/-! DEFINITION. The block copy class and its executor (43_raster_classes.md R272 to R276). -/
namespace Sys2Proof.Machine

open Sys2Proof

/-! ## The block-copy executor -/

/-- One pixel of a block copy: read, then written, before the next is read (R275). -/
def copyPixel (sx sy dx dy : Nat) (s : State) : State :=
  putPixel dx dy (getPixel sx sy s).1 (getPixel sx sy s).2

/-- The `k`-th of `n` positions in scan order, reversed or not (R275). -/
def scanPos (reversed : Bool) (n k : Nat) : Nat := if reversed then n - 1 - k else k

/-- The pixel moves of `Copy` (R275); the two directions are reversed independently. -/
def copyPixels (sx sy dx dy w h : Nat) (s : State) : State :=
  let xrev := decide (dx > sx)
  let yrev := decide (dy > sy)
  loop h (fun jj => loop w (fun ii s1 =>
    let i := scanPos xrev w ii
    let j := scanPos yrev h jj
    copyPixel (sx + i) (sy + j) (dx + i) (dy + j) s1)) s

/-- `Copy(c, sx, sy, dx, dy, w, h)` (R275). -/
def copyRect (sx sy dx dy w h : Nat) (s : State) : State :=
  markDirty (.rect dx dy w h) (if s.bppNow ≠ 0 then copyPixels sx sy dx dy w h s else s)

/-! ## Methods -/

/-- The effects of `BLIT_POINT_IN` (R272): `blit_point_in <- p`. -/
def doBlitPointIn (p : Word) (s : State) : State :=
  classMethod (s.cfg.mthds.blitPointIn.setWidth 32) p (fun q => modCh (fun x => { x with blit := { x.blit with pointIn := q } })) s

/-- `BLIT_POINT_IN` (class `CLS_BLIT`, R272). -/
def execBlitPointIn (p : Word) (s : State) : Host.Outcome State Fault Refusal := .next (paramWord p (doBlitPointIn p) s)

/-- The effects of `BLIT_POINT_OUT` (R273): `blit_point_out <- p`. -/
def doBlitPointOut (p : Word) (s : State) : State :=
  classMethod (s.cfg.mthds.blitPointOut.setWidth 32) p (fun q => modCh (fun x => { x with blit := { x.blit with pointOut := q } })) s

/-- `BLIT_POINT_OUT` (class `CLS_BLIT`, R273). -/
def execBlitPointOut (p : Word) (s : State) : Host.Outcome State Fault Refusal := .next (paramWord p (doBlitPointOut p) s)

/-- The effects of `BLIT_SIZE` (R274): a block copy of the size. -/
def doBlitSize (p : Word) (s : State) : State :=
  classMethod (s.cfg.mthds.blitSize.setWidth 32) p (fun q s1 =>
    let k := s1.cfg.packings
    copyRect (k.blitPointIn.fst s1.ch.blit.pointIn) (k.blitPointIn.snd s1.ch.blit.pointIn)
      (k.blitPointOut.fst s1.ch.blit.pointOut) (k.blitPointOut.snd s1.ch.blit.pointOut)
      (k.blitSize.fst q) (k.blitSize.snd q) s1) s

/-- `BLIT_SIZE` (class `CLS_BLIT`, R274). -/
def execBlitSize (p : Word) (s : State) : Host.Outcome State Fault Refusal := .next (paramWord p (doBlitSize p) s)

end Sys2Proof.Machine
end

