-- ==== Sys2Proof/Machine/D3d.lean ====
section
/-! DEFINITION. The minimal 3D clear class and its executor (43_raster_classes.md R289 to R301). -/
namespace Sys2Proof.Machine

open Sys2Proof

/-! ## The clear executor -/

/-- The number of columns or rows of a clear whose rectangle parameter carries these two numbers (R298 to R300); by
default from a first to a last one, both inclusive. -/
def spanOf (form : SpanForm) (first last : Nat) : Nat :=
  match form with
  | .inclusive => if last ≥ first then last - first + 1 else 0
  | .exclusive => last - first
  | .count => last

/-- The element writes of one plane of a clear (R300), row-major ascending. -/
def clearPlane (obj base : Word) (pitch b x0 y0 w h : Nat) (v : Word) (s : State) : State :=
  loop h (fun j => loop w (fun i s1 =>
    dmaWrite obj (offset base ((y0 + j) * pitch + (x0 + i) * b)) b (v &&& byteMask b) s1)) s

/-- `Clear(c, p)` (R300): the colour plane first, then the depth plane, each gated by its enable bits (R297). -/
def clearSurfaces (p : Word) (s : State) : State :=
  let y := s.ch.d3d
  let f := s.cfg.clear
  let k := s.cfg.packings
  let x0 := k.d3dClearRectH.fst y.rectH
  let y0 := k.d3dClearRectV.fst y.rectV
  let w := spanOf f.span x0 (k.d3dClearRectH.snd y.rectH)
  let h := spanOf f.span y0 (k.d3dClearRectV.snd y.rectV)
  let cb := cbytes s.cfg y.format
  let zb := zbytes s.cfg y.format
  let s1 := if p &&& f.colorEnable ≠ 0 ∧ cb ≠ 0 then
      clearPlane y.colorObj y.colorOfs (k.d3dSurfacePitch.fst y.pitch) cb x0 y0 w h y.cclear s else s
  let s2 := if p &&& f.zetaEnable ≠ 0 ∧ zb ≠ 0 then
      clearPlane y.zetaObj y.zetaOfs (k.d3dSurfacePitch.snd y.pitch) zb x0 y0 w h y.zclear s1 else s1
  markDirty (.rect x0 y0 w h) s2

/-! ## Methods -/

/-- The effects of `D3D_DMA_COLOR` (R289): `d3d_color_obj <- p`, the resolved object address. -/
def doD3dDmaColor (p : Word) (s : State) : State :=
  classMethod (s.cfg.mthds.d3dDmaColor.setWidth 32) p (fun q => modCh (fun x => { x with d3d := { x.d3d with colorObj := q } })) s

/-- `D3D_DMA_COLOR` (class `CLS_D3D`, R289). -/
def execD3dDmaColor (p : Word) (s : State) : Host.Outcome State Fault Refusal := .next (paramWord p (doD3dDmaColor p) s)

/-- The effects of `D3D_DMA_ZETA` (R290): `d3d_zeta_obj <- p`, the resolved object address. -/
def doD3dDmaZeta (p : Word) (s : State) : State :=
  classMethod (s.cfg.mthds.d3dDmaZeta.setWidth 32) p (fun q => modCh (fun x => { x with d3d := { x.d3d with zetaObj := q } })) s

/-- `D3D_DMA_ZETA` (class `CLS_D3D`, R290). -/
def execD3dDmaZeta (p : Word) (s : State) : Host.Outcome State Fault Refusal := .next (paramWord p (doD3dDmaZeta p) s)

/-- The effects of `D3D_SURFACE_FORMAT` (R291): `d3d_format <- p`. -/
def doD3dSurfaceFormat (p : Word) (s : State) : State :=
  classMethod (s.cfg.mthds.d3dSurfaceFormat.setWidth 32) p (fun q => modCh (fun x => { x with d3d := { x.d3d with format := q } })) s

/-- `D3D_SURFACE_FORMAT` (class `CLS_D3D`, R291). -/
def execD3dSurfaceFormat (p : Word) (s : State) : Host.Outcome State Fault Refusal := .next (paramWord p (doD3dSurfaceFormat p) s)

/-- The effects of `D3D_SURFACE_PITCH` (R292): `d3d_pitch <- p`. -/
def doD3dSurfacePitch (p : Word) (s : State) : State :=
  classMethod (s.cfg.mthds.d3dSurfacePitch.setWidth 32) p (fun q => modCh (fun x => { x with d3d := { x.d3d with pitch := q } })) s

/-- `D3D_SURFACE_PITCH` (class `CLS_D3D`, R292). -/
def execD3dSurfacePitch (p : Word) (s : State) : Host.Outcome State Fault Refusal := .next (paramWord p (doD3dSurfacePitch p) s)

/-- The effects of `D3D_COLOR_OFFSET` (R293): `d3d_color_ofs <- p`. -/
def doD3dColorOffset (p : Word) (s : State) : State :=
  classMethod (s.cfg.mthds.d3dColorOffset.setWidth 32) p (fun q => modCh (fun x => { x with d3d := { x.d3d with colorOfs := q } })) s

/-- `D3D_COLOR_OFFSET` (class `CLS_D3D`, R293). -/
def execD3dColorOffset (p : Word) (s : State) : Host.Outcome State Fault Refusal := .next (paramWord p (doD3dColorOffset p) s)

/-- The effects of `D3D_ZETA_OFFSET` (R294): `d3d_zeta_ofs <- p`. -/
def doD3dZetaOffset (p : Word) (s : State) : State :=
  classMethod (s.cfg.mthds.d3dZetaOffset.setWidth 32) p (fun q => modCh (fun x => { x with d3d := { x.d3d with zetaOfs := q } })) s

/-- `D3D_ZETA_OFFSET` (class `CLS_D3D`, R294). -/
def execD3dZetaOffset (p : Word) (s : State) : Host.Outcome State Fault Refusal := .next (paramWord p (doD3dZetaOffset p) s)

/-- The effects of `D3D_ZCLEAR_VALUE` (R295): `d3d_zclear <- p`. -/
def doD3dZclearValue (p : Word) (s : State) : State :=
  classMethod (s.cfg.mthds.d3dZclearValue.setWidth 32) p (fun q => modCh (fun x => { x with d3d := { x.d3d with zclear := q } })) s

/-- `D3D_ZCLEAR_VALUE` (class `CLS_D3D`, R295). -/
def execD3dZclearValue (p : Word) (s : State) : Host.Outcome State Fault Refusal := .next (paramWord p (doD3dZclearValue p) s)

/-- The effects of `D3D_CCLEAR_VALUE` (R296): `d3d_cclear <- p`. -/
def doD3dCclearValue (p : Word) (s : State) : State :=
  classMethod (s.cfg.mthds.d3dCclearValue.setWidth 32) p (fun q => modCh (fun x => { x with d3d := { x.d3d with cclear := q } })) s

/-- `D3D_CCLEAR_VALUE` (class `CLS_D3D`, R296). -/
def execD3dCclearValue (p : Word) (s : State) : Host.Outcome State Fault Refusal := .next (paramWord p (doD3dCclearValue p) s)

/-- The effects of `D3D_CLEAR` (R297): the parameter is the plane enables and is not stored. -/
def doD3dClear (p : Word) (s : State) : State := classMethod (s.cfg.mthds.d3dClear.setWidth 32) p clearSurfaces s

/-- `D3D_CLEAR` (class `CLS_D3D`, R297). -/
def execD3dClear (p : Word) (s : State) : Host.Outcome State Fault Refusal := .next (paramWord p (doD3dClear p) s)

/-- The effects of `D3D_CLEAR_RECT_H` (R298): `d3d_rect_h <- p`. -/
def doD3dClearRectH (p : Word) (s : State) : State :=
  classMethod (s.cfg.mthds.d3dClearRectH.setWidth 32) p (fun q => modCh (fun x => { x with d3d := { x.d3d with rectH := q } })) s

/-- `D3D_CLEAR_RECT_H` (class `CLS_D3D`, R298). -/
def execD3dClearRectH (p : Word) (s : State) : Host.Outcome State Fault Refusal := .next (paramWord p (doD3dClearRectH p) s)

/-- The effects of `D3D_CLEAR_RECT_V` (R299): `d3d_rect_v <- p`. -/
def doD3dClearRectV (p : Word) (s : State) : State :=
  classMethod (s.cfg.mthds.d3dClearRectV.setWidth 32) p (fun q => modCh (fun x => { x with d3d := { x.d3d with rectV := q } })) s

/-- `D3D_CLEAR_RECT_V` (class `CLS_D3D`, R299). -/
def execD3dClearRectV (p : Word) (s : State) : Host.Outcome State Fault Refusal := .next (paramWord p (doD3dClearRectV p) s)

end Sys2Proof.Machine
end

