-- ==== Sys2Proof/Machine/Gdi.lean ====
section
/-! DEFINITION. The GDI rectangle fill class and its executor (43_raster_classes.md R252 to R261). -/
namespace Sys2Proof.Machine

open Sys2Proof

/-! ## The rectangle-fill executor -/

/-- The colour a fill writes: one configured format masks out the top byte (R230, R260). -/
def fillColor (cfg : Config) (x : Channel) : Word :=
  if x.surf.format = cfg.maskedFormat then x.gdi.color &&& 0x00FFFFFF else x.gdi.color

/-- The clip test of R260 on the pixel `(i, j)` of a fill whose origin is `(x0, y0)`: the clip rectangle made relative to
the fill origin, in integers without wrap. -/
def insideClip (k : Packings) (x : Channel) (x0 y0 i j : Nat) : Bool :=
  decide ((k.gdiClipPoint0.fst x.gdi.clip0 : Int) - x0 ≤ i ∧ (i : Int) < (k.gdiClipPoint1.fst x.gdi.clip1 : Int) - x0
    ∧ (k.gdiClipPoint0.snd x.gdi.clip0 : Int) - y0 ≤ j ∧ (j : Int) < (k.gdiClipPoint1.snd x.gdi.clip1 : Int) - y0)

/-- The pixel writes of `Fill` (R260): rows top to bottom, pixels left to right. -/
def fillPixels (x0 y0 w h : Nat) (clipped : Bool) (s : State) : State :=
  loop h (fun j => loop w (fun i s1 =>
    if !clipped || insideClip s1.cfg.packings s1.ch x0 y0 i j then putPixel (x0 + i) (y0 + j) (fillColor s1.cfg s1.ch) s1 else s1)) s

/-- `Fill(c, x0, y0, w, h, mode)` (R260). -/
def fill (x0 y0 w h : Nat) (clipped : Bool) (s : State) : State :=
  markDirty (.rect x0 y0 w h) (if s.bppNow ≠ 0 then fillPixels x0 y0 w h clipped s else s)

/-! ## Methods -/

/-- The effects of `GDI_COLOR_A` (R252): `gdi_color <- p`. -/
def doGdiColorA (p : Word) (s : State) : State :=
  classMethod (s.cfg.mthds.gdiColorA.setWidth 32) p (fun q => modCh (fun x => { x with gdi := { x.gdi with color := q } })) s

/-- `GDI_COLOR_A` (class `CLS_GDI`, R252). -/
def execGdiColorA (p : Word) (s : State) : Host.Outcome State Fault Refusal := .next (paramWord p (doGdiColorA p) s)

/-- The effects of `GDI_UNCLIPPED_POINT(i)` (R253): `gdi_point <- p`; the index selects no state. -/
def doGdiUnclippedPoint (i : BitVec 5) (p : Word) (s : State) : State :=
  classMethod (gdiNumber s.cfg.mthds.gdiUnclippedPoint i) p (fun q => modCh (fun x => { x with gdi := { x.gdi with point := q } })) s

/-- `GDI_UNCLIPPED_POINT(i)` (class `CLS_GDI`, R253). -/
def execGdiUnclippedPoint (i : BitVec 5) (p : Word) (s : State) : Host.Outcome State Fault Refusal := .next (paramWord p (doGdiUnclippedPoint i p) s)

/-- The effects of `GDI_UNCLIPPED_SIZE(i)` (R254): an unclipped fill of the size at `gdi_point`. -/
def doGdiUnclippedSize (i : BitVec 5) (p : Word) (s : State) : State :=
  classMethod (gdiNumber s.cfg.mthds.gdiUnclippedSize i) p
    (fun q s1 =>
      let k := s1.cfg.packings
      fill (k.gdiUnclippedPoint.fst s1.ch.gdi.point) (k.gdiUnclippedPoint.snd s1.ch.gdi.point)
        (k.gdiUnclippedSize.fst q) (k.gdiUnclippedSize.snd q) false s1) s

/-- `GDI_UNCLIPPED_SIZE(i)` (class `CLS_GDI`, R254). -/
def execGdiUnclippedSize (i : BitVec 5) (p : Word) (s : State) : Host.Outcome State Fault Refusal :=
  .next (paramWord p (doGdiUnclippedSize i p) s)

/-- The effects of `GDI_CLIP_POINT0` (R255): `gdi_clip0 <- p`. -/
def doGdiClipPoint0 (p : Word) (s : State) : State :=
  classMethod (s.cfg.mthds.gdiClipPoint0.setWidth 32) p (fun q => modCh (fun x => { x with gdi := { x.gdi with clip0 := q } })) s

/-- `GDI_CLIP_POINT0` (class `CLS_GDI`, R255). -/
def execGdiClipPoint0 (p : Word) (s : State) : Host.Outcome State Fault Refusal := .next (paramWord p (doGdiClipPoint0 p) s)

/-- The effects of `GDI_CLIP_POINT1` (R256): `gdi_clip1 <- p`. -/
def doGdiClipPoint1 (p : Word) (s : State) : State :=
  classMethod (s.cfg.mthds.gdiClipPoint1.setWidth 32) p (fun q => modCh (fun x => { x with gdi := { x.gdi with clip1 := q } })) s

/-- `GDI_CLIP_POINT1` (class `CLS_GDI`, R256). -/
def execGdiClipPoint1 (p : Word) (s : State) : Host.Outcome State Fault Refusal := .next (paramWord p (doGdiClipPoint1 p) s)

/-- The effects of `GDI_COLOR_B` (R257): `gdi_color <- p`, the same register as `GDI_COLOR_A`. -/
def doGdiColorB (p : Word) (s : State) : State :=
  classMethod (s.cfg.mthds.gdiColorB.setWidth 32) p (fun q => modCh (fun x => { x with gdi := { x.gdi with color := q } })) s

/-- `GDI_COLOR_B` (class `CLS_GDI`, R257). -/
def execGdiColorB (p : Word) (s : State) : Host.Outcome State Fault Refusal := .next (paramWord p (doGdiColorB p) s)

/-- The effects of `GDI_CLIPPED_POINT0(i)` (R258): `gdi_rect0 <- p`. -/
def doGdiClippedPoint0 (i : BitVec 5) (p : Word) (s : State) : State :=
  classMethod (gdiNumber s.cfg.mthds.gdiClippedPoint0 i) p (fun q => modCh (fun x => { x with gdi := { x.gdi with rect0 := q } })) s

/-- `GDI_CLIPPED_POINT0(i)` (class `CLS_GDI`, R258). -/
def execGdiClippedPoint0 (i : BitVec 5) (p : Word) (s : State) : Host.Outcome State Fault Refusal := .next (paramWord p (doGdiClippedPoint0 i p) s)

/-- The effects of `GDI_CLIPPED_POINT1(i)` (R259): a clipped fill from `gdi_rect0` to the corner, empty
where the second corner lies left of or above the first. -/
def doGdiClippedPoint1 (i : BitVec 5) (p : Word) (s : State) : State :=
  classMethod (gdiNumber s.cfg.mthds.gdiClippedPoint1 i) p
    (fun q s1 =>
      let x0 := s1.cfg.packings.gdiClippedPoint0.fst s1.ch.gdi.rect0
      let y0 := s1.cfg.packings.gdiClippedPoint0.snd s1.ch.gdi.rect0
      let x1 := s1.cfg.packings.gdiClippedPoint1.fst q
      let y1 := s1.cfg.packings.gdiClippedPoint1.snd q
      fill x0 y0 (if x1 ≥ x0 then x1 - x0 else 0) (if y1 ≥ y0 then y1 - y0 else 0) true s1) s

/-- `GDI_CLIPPED_POINT1(i)` (class `CLS_GDI`, R259). -/
def execGdiClippedPoint1 (i : BitVec 5) (p : Word) (s : State) : Host.Outcome State Fault Refusal :=
  .next (paramWord p (doGdiClippedPoint1 i p) s)

end Sys2Proof.Machine
end

