-- ==== Sys2Proof/Machine/Ifc.lean ====
section
/-! DEFINITION. The CPU image upload class, its state machine and its executor (43_raster_classes.md R262 to R270). -/
namespace Sys2Proof.Machine

open Sys2Proof

/-- `Release(c)` on the class state (R270). -/
def releaseBuf (y : IfcState) : IfcState := { y with buf := [], need := 0 }

/-- Change the image-upload state of the current channel. -/
def modIfc (f : IfcState → IfcState) (s : State) : State := modCh (fun x => { x with ifc := f x.ifc }) s

/-- `BufWords(sw, sh, B) = ceil(sw * sh * B / 4)` on natural numbers (R266). -/
def bufWords (sw sh b : Nat) : Nat := (sw * sh * b + 3) / 4

/-! ## The image-upload executor -/

/-- `byte(k)` of R267: byte `k` of the buffered image, 0 beyond the buffer. -/
def imageByte (buf : List Word) (k : Nat) : Nat := ((buf.getD (k / 4) 0) >>> (8 * (k % 4))).toNat % 256

/-- Bytes `k` to `k + n - 1` of the buffered image as a little-endian number. -/
def imageBytes (buf : List Word) (k : Nat) : Nat → Nat
  | 0 => 0
  | n + 1 => imageByte buf k + 256 * imageBytes buf (k + 1) n

/-- `pixel(n)` of R267 for a pixel size of `b` bytes. -/
def imagePixel (buf : List Word) (b n : Nat) : Word := BitVec.ofNat 32 (imageBytes buf (n * b) b)

/-- The pixel writes of `Upload` (R267): row-major; source row `j` starts at pixel `j * sw`. -/
def uploadPixels (dx dy dw dh sw : Nat) (s : State) : State :=
  loop dh (fun j => loop dw (fun i s1 =>
    putPixel (dx + i) (dy + j) (imagePixel s1.ch.ifc.buf s1.bppNow (j * sw + i)) s1)) s

/-- `Upload(c)` (R267). -/
def upload (s : State) : State :=
  let k := s.cfg.packings
  let y := s.ch.ifc
  let dx := k.ifcPoint.fst y.point
  let dy := k.ifcPoint.snd y.point
  let dw := k.ifcSizeOut.fst y.sizeOut
  let dh := k.ifcSizeOut.snd y.sizeOut
  markDirty (.rect dx dy dw dh) (if s.bppNow ≠ 0 then uploadPixels dx dy dw dh (k.ifcSizeIn.fst y.sizeIn) s else s)

/-! ## Methods -/

/-- The effects of `IFC_POINT` (R262): `ifc_point <- p`. -/
def doIfcPoint (p : Word) (s : State) : State :=
  classMethod (s.cfg.mthds.ifcPoint.setWidth 32) p (fun q => modCh (fun x => { x with ifc := { x.ifc with point := q } })) s

/-- `IFC_POINT` (class `CLS_IFC`, R262). -/
def execIfcPoint (p : Word) (s : State) : Host.Outcome State Fault Refusal := .next (paramWord p (doIfcPoint p) s)

/-- The handler of `IFC_SIZE_OUT` (R263): the size is stored, the buffer released, and the sentinel value, where one is
defined, enters the fast path. -/
def setSizeOut (q : Word) (s : State) : State :=
  let off := dstOff s (s.cfg.packings.ifcPoint.fst s.ch.ifc.point) (s.cfg.packings.ifcPoint.snd s.ch.ifc.point)
  if s.cfg.ifcFastpathSize = some q then
    modIfc (fun y => { releaseBuf y with sizeOut := q, state := .fastPath, fastOff := off }) s
  else
    modIfc (fun y => { releaseBuf y with sizeOut := q, state := .configuring }) s

/-- The effects of `IFC_SIZE_OUT` (R263). -/
def doIfcSizeOut (p : Word) (s : State) : State := classMethod (s.cfg.mthds.ifcSizeOut.setWidth 32) p setSizeOut s

/-- `IFC_SIZE_OUT` (class `CLS_IFC`, R263). -/
def execIfcSizeOut (p : Word) (s : State) : Host.Outcome State Fault Refusal := .next (paramWord p (doIfcSizeOut p) s)

/-- The handler of `IFC_SIZE_IN` (R264): the size is stored and, outside the fast path, a new buffer made. -/
def setSizeIn (q : Word) (s : State) : State :=
  let n := bufWords (s.cfg.packings.ifcSizeIn.fst q) (s.cfg.packings.ifcSizeIn.snd q) s.bppNow
  if s.ch.ifc.state = .fastPath then modIfc (fun y => { y with sizeIn := q }) s
  else if n > 0 then modIfc (fun y => { releaseBuf y with sizeIn := q, need := n, state := .streaming }) s
  else modIfc (fun y => { releaseBuf y with sizeIn := q, state := .configuring }) s

/-- The effects of `IFC_SIZE_IN` (R264). -/
def doIfcSizeIn (p : Word) (s : State) : State := classMethod (s.cfg.mthds.ifcSizeIn.setWidth 32) p setSizeIn s

/-- `IFC_SIZE_IN` (class `CLS_IFC`, R264). -/
def execIfcSizeIn (p : Word) (s : State) : Host.Outcome State Fault Refusal := .next (paramWord p (doIfcSizeIn p) s)

/-- The handler of `IFC_DATA` (R265, R268): one word of pixel data, by the state of the upload. -/
def imageData (m q : Word) (s : State) : State :=
  match s.ch.ifc.state with
  | .fastPath =>
    modIfc (fun y => { y with fastOff := y.fastOff + 4 }) (dmaWrite s.ch.surf.dstObj s.ch.ifc.fastOff 4 q s)
  | .streaming =>
    let s1 := modIfc (fun y => { y with buf := y.buf ++ [q] }) s
    if s1.ch.ifc.buf.length = s1.ch.ifc.need then
      modIfc (fun y => { releaseBuf y with state := .configuring }) (upload s1)
    else s1
  | .configuring => logEvent (.ev11 s.cur m q) s

/-- The effects of `IFC_DATA` (R265); the number that EV11 records is the device's. -/
def doIfcData (m : Mthd) (p : Word) (s : State) : State :=
  classMethod (s.cfg.mthds.ifcDataNumber m) p (imageData (s.cfg.mthds.ifcDataNumber m)) s

/-- `IFC_DATA`, methods `0x100` to `0x1FF` (class `CLS_IFC`, R265). -/
def execIfcData100 (m : Mthd) (p : Word) (s : State) : Host.Outcome State Fault Refusal :=
  .next (paramWord p (doIfcData m p) s)

/-- `IFC_DATA`, methods `0x200` to `0x3FF` (class `CLS_IFC`, R265). -/
def execIfcData200 (m : Mthd) (p : Word) (s : State) : Host.Outcome State Fault Refusal :=
  .next (paramWord p (doIfcData m p) s)

/-- `IFC_DATA`, methods `0x400` to `0x7FF` (class `CLS_IFC`, R265). -/
def execIfcData400 (m : Mthd) (p : Word) (s : State) : Host.Outcome State Fault Refusal :=
  .next (paramWord p (doIfcData m p) s)

end Sys2Proof.Machine
end

