-- ==== Sys2Proof/Machine/M2mf.lean ====
section
/-! DEFINITION. The memory-to-memory copy class and its executor (43_raster_classes.md R277 to R288). -/
namespace Sys2Proof.Machine

open Sys2Proof

/-! ## The memory-to-memory executor -/

/-- `display_match(obj)` (R288). -/
def displayMatches (s : State) (obj : Word) : Bool :=
  match s.cfg.displayMatch with
  | .deviceTarget => field 17 17 (devRead s obj 4) == 0
  | .oneOf objs => objs.contains obj

/-- Whole words per line: `line_len >> 2` (R287). -/
def lineWords (y : M2mfState) : Nat := (y.lineLen >>> 2).toNat

/-- Word `k` of line `l`: read, then written, before the next is read (R287). -/
def copyWord (l k : Nat) (s : State) : State :=
  let y := s.ch.m2mf
  let r := dmaRead y.srcObj (y.ofsIn + BitVec.ofNat 32 l * y.pitchIn + 4 * BitVec.ofNat 32 k) 4 s
  dmaWrite y.dstObj (y.ofsOut + BitVec.ofNat 32 l * y.pitchOut + 4 * BitVec.ofNat 32 k) 4 r.1 r.2

/-- The word moves of `MemCopy` (R287): lines and words ascending. -/
def copyLines (lines words : Nat) (s : State) : State := loop lines (fun l => loop words (fun k => copyWord l k)) s

/-- `MemCopy(c)` (R287); the display test is made once, after the copy (R288). -/
def memCopy (s : State) : State :=
  let y := s.ch.m2mf
  let s1 := copyLines y.lineCount.toNat (lineWords y) s
  if displayMatches s1 y.dstObj then
    markDirty (.bytes y.ofsOut y.pitchOut (4 * lineWords y) y.lineCount.toNat) s1
  else s1

/-! ## Methods -/

/-- The effects of `M2MF_DMA_IN` (R277): `m2mf_src_obj <- p`, the resolved object address. -/
def doM2mfDmaIn (p : Word) (s : State) : State :=
  classMethod (s.cfg.mthds.m2mfDmaIn.setWidth 32) p (fun q => modCh (fun x => { x with m2mf := { x.m2mf with srcObj := q } })) s

/-- `M2MF_DMA_IN` (class `CLS_M2MF`, R277). -/
def execM2mfDmaIn (p : Word) (s : State) : Host.Outcome State Fault Refusal := .next (paramWord p (doM2mfDmaIn p) s)

/-- The effects of `M2MF_DMA_OUT` (R278): `m2mf_dst_obj <- p`, the resolved object address. -/
def doM2mfDmaOut (p : Word) (s : State) : State :=
  classMethod (s.cfg.mthds.m2mfDmaOut.setWidth 32) p (fun q => modCh (fun x => { x with m2mf := { x.m2mf with dstObj := q } })) s

/-- `M2MF_DMA_OUT` (class `CLS_M2MF`, R278). -/
def execM2mfDmaOut (p : Word) (s : State) : Host.Outcome State Fault Refusal := .next (paramWord p (doM2mfDmaOut p) s)

/-- The effects of `M2MF_OFS_IN` (R279): `m2mf_ofs_in <- p`. -/
def doM2mfOfsIn (p : Word) (s : State) : State :=
  classMethod (s.cfg.mthds.m2mfOfsIn.setWidth 32) p (fun q => modCh (fun x => { x with m2mf := { x.m2mf with ofsIn := q } })) s

/-- `M2MF_OFS_IN` (class `CLS_M2MF`, R279). -/
def execM2mfOfsIn (p : Word) (s : State) : Host.Outcome State Fault Refusal := .next (paramWord p (doM2mfOfsIn p) s)

/-- The effects of `M2MF_OFS_OUT` (R280): `m2mf_ofs_out <- p`. -/
def doM2mfOfsOut (p : Word) (s : State) : State :=
  classMethod (s.cfg.mthds.m2mfOfsOut.setWidth 32) p (fun q => modCh (fun x => { x with m2mf := { x.m2mf with ofsOut := q } })) s

/-- `M2MF_OFS_OUT` (class `CLS_M2MF`, R280). -/
def execM2mfOfsOut (p : Word) (s : State) : Host.Outcome State Fault Refusal := .next (paramWord p (doM2mfOfsOut p) s)

/-- The effects of `M2MF_PITCH_IN` (R281): `m2mf_pitch_in <- p`. -/
def doM2mfPitchIn (p : Word) (s : State) : State :=
  classMethod (s.cfg.mthds.m2mfPitchIn.setWidth 32) p (fun q => modCh (fun x => { x with m2mf := { x.m2mf with pitchIn := q } })) s

/-- `M2MF_PITCH_IN` (class `CLS_M2MF`, R281). -/
def execM2mfPitchIn (p : Word) (s : State) : Host.Outcome State Fault Refusal := .next (paramWord p (doM2mfPitchIn p) s)

/-- The effects of `M2MF_PITCH_OUT` (R282): `m2mf_pitch_out <- p`. -/
def doM2mfPitchOut (p : Word) (s : State) : State :=
  classMethod (s.cfg.mthds.m2mfPitchOut.setWidth 32) p (fun q => modCh (fun x => { x with m2mf := { x.m2mf with pitchOut := q } })) s

/-- `M2MF_PITCH_OUT` (class `CLS_M2MF`, R282). -/
def execM2mfPitchOut (p : Word) (s : State) : Host.Outcome State Fault Refusal := .next (paramWord p (doM2mfPitchOut p) s)

/-- The effects of `M2MF_LINE_LEN` (R283): `m2mf_line_len <- p`. -/
def doM2mfLineLen (p : Word) (s : State) : State :=
  classMethod (s.cfg.mthds.m2mfLineLen.setWidth 32) p (fun q => modCh (fun x => { x with m2mf := { x.m2mf with lineLen := q } })) s

/-- `M2MF_LINE_LEN` (class `CLS_M2MF`, R283). -/
def execM2mfLineLen (p : Word) (s : State) : Host.Outcome State Fault Refusal := .next (paramWord p (doM2mfLineLen p) s)

/-- The effects of `M2MF_LINE_COUNT` (R284): `m2mf_line_count <- p`. -/
def doM2mfLineCount (p : Word) (s : State) : State :=
  classMethod (s.cfg.mthds.m2mfLineCount.setWidth 32) p (fun q => modCh (fun x => { x with m2mf := { x.m2mf with lineCount := q } })) s

/-- `M2MF_LINE_COUNT` (class `CLS_M2MF`, R284). -/
def execM2mfLineCount (p : Word) (s : State) : Host.Outcome State Fault Refusal := .next (paramWord p (doM2mfLineCount p) s)

/-- The effects of `M2MF_FORMAT` (R285): `m2mf_format <- p`. -/
def doM2mfFormat (p : Word) (s : State) : State :=
  classMethod (s.cfg.mthds.m2mfFormat.setWidth 32) p (fun q => modCh (fun x => { x with m2mf := { x.m2mf with format := q } })) s

/-- `M2MF_FORMAT` (class `CLS_M2MF`, R285). -/
def execM2mfFormat (p : Word) (s : State) : Host.Outcome State Fault Refusal := .next (paramWord p (doM2mfFormat p) s)

/-- The effects of `M2MF_BUFFER_NOTIFY` (R286): the value is stored, then the copy runs. -/
def doM2mfBufferNotify (p : Word) (s : State) : State :=
  classMethod (s.cfg.mthds.m2mfBufferNotify.setWidth 32) p (fun q s1 => memCopy (modCh (fun x => { x with m2mf := { x.m2mf with notify := q } }) s1)) s

/-- `M2MF_BUFFER_NOTIFY` (class `CLS_M2MF`, R286). -/
def execM2mfBufferNotify (p : Word) (s : State) : Host.Outcome State Fault Refusal :=
  .next (paramWord p (doM2mfBufferNotify p) s)

end Sys2Proof.Machine
end

