-- ==== Sys2Proof/Machine/StateClasses.lean ====
section
/-! DEFINITION. The four classes whose methods only store parameters (42_state_classes.md R210 to R229). -/
namespace Sys2Proof.Machine

open Sys2Proof

/-! ## Clip rectangle class -/

/-- The effects of `CLIP_POINT` (R211): `clip_point <- p`. -/
def doClipPoint (p : Word) (s : State) : State :=
  classMethod (s.cfg.mthds.clipPoint.setWidth 32) p (fun q => modCh (fun x => { x with clip := { x.clip with point := q } })) s

/-- `CLIP_POINT` (class `CLS_CLIP`, R211). -/
def execClipPoint (p : Word) (s : State) : Host.Outcome State Fault Refusal := .next (paramWord p (doClipPoint p) s)

/-- The effects of `CLIP_SIZE` (R212): `clip_size <- p`. -/
def doClipSize (p : Word) (s : State) : State :=
  classMethod (s.cfg.mthds.clipSize.setWidth 32) p (fun q => modCh (fun x => { x with clip := { x.clip with size := q } })) s

/-- `CLIP_SIZE` (class `CLS_CLIP`, R212). -/
def execClipSize (p : Word) (s : State) : Host.Outcome State Fault Refusal := .next (paramWord p (doClipSize p) s)

/-! ## ROP selector class -/

/-- The effects of `ROP` (R215): `rop <- p`. -/
def doRop (p : Word) (s : State) : State :=
  classMethod (s.cfg.mthds.rop.setWidth 32) p (fun q => modCh (fun x => { x with rop := q })) s

/-- `ROP` (class `CLS_ROP`, R215). -/
def execRop (p : Word) (s : State) : Host.Outcome State Fault Refusal := .next (paramWord p (doRop p) s)

/-! ## Pattern class -/

/-- The effects of `PATT_COLOR0` (R217): `patt_color0 <- p`. -/
def doPattColor0 (p : Word) (s : State) : State :=
  classMethod (s.cfg.mthds.pattColor0.setWidth 32) p (fun q => modCh (fun x => { x with patt := { x.patt with color0 := q } })) s

/-- `PATT_COLOR0` (class `CLS_PATT`, R217). -/
def execPattColor0 (p : Word) (s : State) : Host.Outcome State Fault Refusal := .next (paramWord p (doPattColor0 p) s)

/-- The effects of `PATT_COLOR1` (R218): `patt_color1 <- p`. -/
def doPattColor1 (p : Word) (s : State) : State :=
  classMethod (s.cfg.mthds.pattColor1.setWidth 32) p (fun q => modCh (fun x => { x with patt := { x.patt with color1 := q } })) s

/-- `PATT_COLOR1` (class `CLS_PATT`, R218). -/
def execPattColor1 (p : Word) (s : State) : Host.Outcome State Fault Refusal := .next (paramWord p (doPattColor1 p) s)

/-- The effects of `PATT_MONO0` (R219): `patt_mono[0] <- p`. -/
def doPattMono0 (p : Word) (s : State) : State :=
  classMethod (s.cfg.mthds.pattMono0.setWidth 32) p (fun q => modCh (fun x => { x with patt := { x.patt with mono := x.patt.mono.set 0 q } })) s

/-- `PATT_MONO0` (class `CLS_PATT`, R219). -/
def execPattMono0 (p : Word) (s : State) : Host.Outcome State Fault Refusal := .next (paramWord p (doPattMono0 p) s)

/-- The effects of `PATT_MONO1` (R220): `patt_mono[1] <- p`. -/
def doPattMono1 (p : Word) (s : State) : State :=
  classMethod (s.cfg.mthds.pattMono1.setWidth 32) p (fun q => modCh (fun x => { x with patt := { x.patt with mono := x.patt.mono.set 1 q } })) s

/-- `PATT_MONO1` (class `CLS_PATT`, R220). -/
def execPattMono1 (p : Word) (s : State) : Host.Outcome State Fault Refusal := .next (paramWord p (doPattMono1 p) s)

/-- The effects of `PATT_IDX(i)` (R221): `patt_idx[i] <- p`. -/
def doPattIdx (i : BitVec 4) (p : Word) (s : State) : State :=
  classMethod (s.cfg.mthds.pattIdxNumber i) p (fun q => modCh (fun x => { x with patt := { x.patt with idx := x.patt.idx.set i.toNat q i.isLt } })) s

/-- `PATT_IDX(i)` (class `CLS_PATT`, R221). -/
def execPattIdx (i : BitVec 4) (p : Word) (s : State) : Host.Outcome State Fault Refusal := .next (paramWord p (doPattIdx i p) s)

/-! ## 2D surface class -/

/-- The effects of `SURF_DMA_SRC` (R224): `s2d_src_obj <- p`, the resolved object address. -/
def doSurfDmaSrc (p : Word) (s : State) : State :=
  classMethod (s.cfg.mthds.surfDmaSrc.setWidth 32) p (fun q => modCh (fun x => { x with surf := { x.surf with srcObj := q } })) s

/-- `SURF_DMA_SRC` (class `CLS_SURF2D`, R224). -/
def execSurfDmaSrc (p : Word) (s : State) : Host.Outcome State Fault Refusal := .next (paramWord p (doSurfDmaSrc p) s)

/-- The effects of `SURF_DMA_DST` (R225): `s2d_dst_obj <- p`, the resolved object address. -/
def doSurfDmaDst (p : Word) (s : State) : State :=
  classMethod (s.cfg.mthds.surfDmaDst.setWidth 32) p (fun q => modCh (fun x => { x with surf := { x.surf with dstObj := q } })) s

/-- `SURF_DMA_DST` (class `CLS_SURF2D`, R225). -/
def execSurfDmaDst (p : Word) (s : State) : Host.Outcome State Fault Refusal := .next (paramWord p (doSurfDmaDst p) s)

/-- The effects of `SURF_FORMAT` (R226): `s2d_format <- p`. -/
def doSurfFormat (p : Word) (s : State) : State :=
  classMethod 0x0C0 p (fun q => modCh (fun x => { x with surf := { x.surf with format := q } })) s

/-- `SURF_FORMAT` (class `CLS_SURF2D`, R226). -/
def execSurfFormat (p : Word) (s : State) : Host.Outcome State Fault Refusal := .next (paramWord p (doSurfFormat p) s)

/-- The effects of `SURF_PITCH` (R227): `s2d_pitch <- p`. -/
def doSurfPitch (p : Word) (s : State) : State :=
  classMethod (s.cfg.mthds.surfPitch.setWidth 32) p (fun q => modCh (fun x => { x with surf := { x.surf with pitch := q } })) s

/-- `SURF_PITCH` (class `CLS_SURF2D`, R227). -/
def execSurfPitch (p : Word) (s : State) : Host.Outcome State Fault Refusal := .next (paramWord p (doSurfPitch p) s)

/-- The effects of `SURF_OFS_SRC` (R228): `s2d_ofs_src <- p`. -/
def doSurfOfsSrc (p : Word) (s : State) : State :=
  classMethod (s.cfg.mthds.surfOfsSrc.setWidth 32) p (fun q => modCh (fun x => { x with surf := { x.surf with ofsSrc := q } })) s

/-- `SURF_OFS_SRC` (class `CLS_SURF2D`, R228). -/
def execSurfOfsSrc (p : Word) (s : State) : Host.Outcome State Fault Refusal := .next (paramWord p (doSurfOfsSrc p) s)

/-- The effects of `SURF_OFS_DST` (R229): `s2d_ofs_dst <- p`. -/
def doSurfOfsDst (p : Word) (s : State) : State :=
  classMethod (s.cfg.mthds.surfOfsDst.setWidth 32) p (fun q => modCh (fun x => { x with surf := { x.surf with ofsDst := q } })) s

/-- `SURF_OFS_DST` (class `CLS_SURF2D`, R229). -/
def execSurfOfsDst (p : Word) (s : State) : Host.Outcome State Fault Refusal := .next (paramWord p (doSurfOfsDst p) s)

end Sys2Proof.Machine
end

