-- ==== Sys2Proof/Machine/Data.lean ====
section
/-! DEFINITION. The dispatcher as a whole (41_method_dispatch.md R180, R189 to R191): the route of the current
subchannel, the parse slot of the next word, and the meaning of the row `DATA` (40_command_words.md R160). -/
namespace Sys2Proof.Machine

open Sys2Proof

/-- Where R189 routes a method of the current subchannel; the class is read from device memory now (R181). -/
def State.route (s : State) : Route :=
  if s.sc.engine = engSw then .software
  else if s.sc.engine = s.cfg.engGr then .graphics (clsOf s.cfg s.classId)
  else .unknownEngine

/-- The opcode table's number of the current method (R6 `M_*`, R180); none where the table lists none. -/
def State.rowNumber (s : State) : Option Word := s.cfg.mthds.rowNumber s.route s.ch.mthd

/-- The parse slot of the next word (R120, R152): control mode while `remaining` is 0. -/
def State.slot (s : State) : Slot :=
  if s.ch.remaining = 0 then .control
  else
    match s.rowNumber with
    | some m => .param s.route m
    | none => .noRow

/-- A parameter word that reaches no method row (R185, R189 to R191): a channel-global number under which the device
has no method, the software engine, an engine this block does not have, a class that is none of the nine, or a method
not in its class's table. On the graphics engine the notification step still runs. -/
def doNoRow (p : Word) (s : State) : State :=
  if s.cfg.mthds.isGlobal s.ch.mthd then doGlobalUndef s.ch.mthd p s
  else match s.route with
  | .software => doSoftware p s
  | .unknownEngine => doUnknownEngine p s
  | .graphics none => classMethod s.ch.mthd p doUnknownClass s
  | .graphics (some _) => classMethod s.ch.mthd p doUnknownMethod s

/-- The effects of a method row; a word that is no method row's has those of `DATA` with the parameter `q`. -/
def doRow (i : Instr) (q : Word) (s : State) : State :=
  match i with
  | .bind p => doBind p s
  | .globalUndef001 p => doGlobalUndef 0x001 p s
  | .globalUndef002 m p => doGlobalUndef (m.setWidth 32) p s
  | .globalUndef004 m p => doGlobalUndef (m.setWidth 32) p s
  | .globalUndef008 m p => doGlobalUndef (m.setWidth 32) p s
  | .globalUndef010 m p => doGlobalUndef (m.setWidth 32) p s
  | .globalUndef015 p => doGlobalUndef 0x015 p s
  | .globalUndef016 m p => doGlobalUndef (m.setWidth 32) p s
  | .globalUndef018 m p => doGlobalUndef (m.setWidth 32) p s
  | .globalUndef020 m p => doGlobalUndef (m.setWidth 32) p s
  | .refCnt p => doRefCnt p s
  | .notify p => doNotify p s
  | .setNotifier p => doSetNotifier p s
  | .clipPoint p => doClipPoint p s
  | .clipSize p => doClipSize p s
  | .rop p => doRop p s
  | .pattColor0 p => doPattColor0 p s
  | .pattColor1 p => doPattColor1 p s
  | .pattMono0 p => doPattMono0 p s
  | .pattMono1 p => doPattMono1 p s
  | .pattIdx i p => doPattIdx i p s
  | .surfDmaSrc p => doSurfDmaSrc p s
  | .surfDmaDst p => doSurfDmaDst p s
  | .surfFormat p => doSurfFormat p s
  | .surfPitch p => doSurfPitch p s
  | .surfOfsSrc p => doSurfOfsSrc p s
  | .surfOfsDst p => doSurfOfsDst p s
  | .gdiColorA p => doGdiColorA p s
  | .gdiUnclippedPoint i p => doGdiUnclippedPoint i p s
  | .gdiUnclippedSize i p => doGdiUnclippedSize i p s
  | .gdiClipPoint0 p => doGdiClipPoint0 p s
  | .gdiClipPoint1 p => doGdiClipPoint1 p s
  | .gdiColorB p => doGdiColorB p s
  | .gdiClippedPoint0 i p => doGdiClippedPoint0 i p s
  | .gdiClippedPoint1 i p => doGdiClippedPoint1 i p s
  | .ifcPoint p => doIfcPoint p s
  | .ifcSizeOut p => doIfcSizeOut p s
  | .ifcSizeIn p => doIfcSizeIn p s
  | .ifcData100 m p => doIfcData m p s
  | .ifcData200 m p => doIfcData m p s
  | .ifcData400 m p => doIfcData m p s
  | .blitPointIn p => doBlitPointIn p s
  | .blitPointOut p => doBlitPointOut p s
  | .blitSize p => doBlitSize p s
  | .m2mfDmaIn p => doM2mfDmaIn p s
  | .m2mfDmaOut p => doM2mfDmaOut p s
  | .m2mfOfsIn p => doM2mfOfsIn p s
  | .m2mfOfsOut p => doM2mfOfsOut p s
  | .m2mfPitchIn p => doM2mfPitchIn p s
  | .m2mfPitchOut p => doM2mfPitchOut p s
  | .m2mfLineLen p => doM2mfLineLen p s
  | .m2mfLineCount p => doM2mfLineCount p s
  | .m2mfFormat p => doM2mfFormat p s
  | .m2mfBufferNotify p => doM2mfBufferNotify p s
  | .d3dDmaColor p => doD3dDmaColor p s
  | .d3dDmaZeta p => doD3dDmaZeta p s
  | .d3dSurfaceFormat p => doD3dSurfaceFormat p s
  | .d3dSurfacePitch p => doD3dSurfacePitch p s
  | .d3dColorOffset p => doD3dColorOffset p s
  | .d3dZetaOffset p => doD3dZetaOffset p s
  | .d3dZclearValue p => doD3dZclearValue p s
  | .d3dCclearValue p => doD3dCclearValue p s
  | .d3dClear p => doD3dClear p s
  | .d3dClearRectH p => doD3dClearRectH p s
  | .d3dClearRectV p => doD3dClearRectV p s
  | .data p => doNoRow p s
  | .jmpl _ => doNoRow q s
  | .jmp _ => doNoRow q s
  | .call _ => doNoRow q s
  | .ret => doNoRow q s
  | .hdr _ _ _ => doNoRow q s
  | .hdrNi _ _ _ => doNoRow q s
  | .badLow11 _ => doNoRow q s
  | .badB31 _ => doNoRow q s
  | .badB3029 _ => doNoRow q s
  | .badB16 _ => doNoRow q s
  | .badB17 _ => doNoRow q s

/-- The effects of `Dispatch(c, s, m, p)` (R180): those of the method row that the route and the method number select. -/
def doDispatch (p : Word) (s : State) : State :=
  match s.rowNumber with
  | some m => doRow (decodeParam s.route m p) p s
  | none => doNoRow p s

/-- `DATA p` (R160): a parameter word, dispatched to the current subchannel and method whatever they are. -/
def execData (p : Word) (s : State) : Host.Outcome State Fault Refusal := .next (paramWord p (doDispatch p) s)

end Sys2Proof.Machine
end

