-- ==== Sys2Proof/Machine/Dispatch.lean ====
section
/-! DEFINITION. One arm for each instruction. -/
namespace Sys2Proof.Machine

open Sys2Proof

def exec (i : Instr) (s : State) : Host.Outcome State Fault Refusal :=
  match i with
  | .jmpl target => Sys2Proof.Machine.execJmpl target s
  | .jmp target => Sys2Proof.Machine.execJmp target s
  | .call target => Sys2Proof.Machine.execCall target s
  | .ret => Sys2Proof.Machine.execRet s
  | .hdr subc mthd count => Sys2Proof.Machine.execHdr subc mthd count s
  | .hdrNi subc mthd count => Sys2Proof.Machine.execHdrNi subc mthd count s
  | .badLow11 w => Sys2Proof.Machine.execBadLow11 w s
  | .badB31 w => Sys2Proof.Machine.execBadB31 w s
  | .badB3029 w => Sys2Proof.Machine.execBadB3029 w s
  | .badB16 w => Sys2Proof.Machine.execBadB16 w s
  | .badB17 w => Sys2Proof.Machine.execBadB17 w s
  | .data p => Sys2Proof.Machine.execData p s
  | .bind p => Sys2Proof.Machine.execBind p s
  | .globalUndef001 p => Sys2Proof.Machine.execGlobalUndef001 p s
  | .globalUndef002 m p => Sys2Proof.Machine.execGlobalUndef002 m p s
  | .globalUndef004 m p => Sys2Proof.Machine.execGlobalUndef004 m p s
  | .globalUndef008 m p => Sys2Proof.Machine.execGlobalUndef008 m p s
  | .globalUndef010 m p => Sys2Proof.Machine.execGlobalUndef010 m p s
  | .globalUndef015 p => Sys2Proof.Machine.execGlobalUndef015 p s
  | .globalUndef016 m p => Sys2Proof.Machine.execGlobalUndef016 m p s
  | .globalUndef018 m p => Sys2Proof.Machine.execGlobalUndef018 m p s
  | .globalUndef020 m p => Sys2Proof.Machine.execGlobalUndef020 m p s
  | .refCnt p => Sys2Proof.Machine.execRefCnt p s
  | .notify p => Sys2Proof.Machine.execNotify p s
  | .setNotifier p => Sys2Proof.Machine.execSetNotifier p s
  | .clipPoint p => Sys2Proof.Machine.execClipPoint p s
  | .clipSize p => Sys2Proof.Machine.execClipSize p s
  | .rop p => Sys2Proof.Machine.execRop p s
  | .pattColor0 p => Sys2Proof.Machine.execPattColor0 p s
  | .pattColor1 p => Sys2Proof.Machine.execPattColor1 p s
  | .pattMono0 p => Sys2Proof.Machine.execPattMono0 p s
  | .pattMono1 p => Sys2Proof.Machine.execPattMono1 p s
  | .pattIdx k p => Sys2Proof.Machine.execPattIdx k p s
  | .surfDmaSrc p => Sys2Proof.Machine.execSurfDmaSrc p s
  | .surfDmaDst p => Sys2Proof.Machine.execSurfDmaDst p s
  | .surfFormat p => Sys2Proof.Machine.execSurfFormat p s
  | .surfPitch p => Sys2Proof.Machine.execSurfPitch p s
  | .surfOfsSrc p => Sys2Proof.Machine.execSurfOfsSrc p s
  | .surfOfsDst p => Sys2Proof.Machine.execSurfOfsDst p s
  | .gdiColorA p => Sys2Proof.Machine.execGdiColorA p s
  | .gdiUnclippedPoint k p => Sys2Proof.Machine.execGdiUnclippedPoint k p s
  | .gdiUnclippedSize k p => Sys2Proof.Machine.execGdiUnclippedSize k p s
  | .gdiClipPoint0 p => Sys2Proof.Machine.execGdiClipPoint0 p s
  | .gdiClipPoint1 p => Sys2Proof.Machine.execGdiClipPoint1 p s
  | .gdiColorB p => Sys2Proof.Machine.execGdiColorB p s
  | .gdiClippedPoint0 k p => Sys2Proof.Machine.execGdiClippedPoint0 k p s
  | .gdiClippedPoint1 k p => Sys2Proof.Machine.execGdiClippedPoint1 k p s
  | .ifcPoint p => Sys2Proof.Machine.execIfcPoint p s
  | .ifcSizeOut p => Sys2Proof.Machine.execIfcSizeOut p s
  | .ifcSizeIn p => Sys2Proof.Machine.execIfcSizeIn p s
  | .ifcData100 m p => Sys2Proof.Machine.execIfcData100 m p s
  | .ifcData200 m p => Sys2Proof.Machine.execIfcData200 m p s
  | .ifcData400 m p => Sys2Proof.Machine.execIfcData400 m p s
  | .blitPointIn p => Sys2Proof.Machine.execBlitPointIn p s
  | .blitPointOut p => Sys2Proof.Machine.execBlitPointOut p s
  | .blitSize p => Sys2Proof.Machine.execBlitSize p s
  | .m2mfDmaIn p => Sys2Proof.Machine.execM2mfDmaIn p s
  | .m2mfDmaOut p => Sys2Proof.Machine.execM2mfDmaOut p s
  | .m2mfOfsIn p => Sys2Proof.Machine.execM2mfOfsIn p s
  | .m2mfOfsOut p => Sys2Proof.Machine.execM2mfOfsOut p s
  | .m2mfPitchIn p => Sys2Proof.Machine.execM2mfPitchIn p s
  | .m2mfPitchOut p => Sys2Proof.Machine.execM2mfPitchOut p s
  | .m2mfLineLen p => Sys2Proof.Machine.execM2mfLineLen p s
  | .m2mfLineCount p => Sys2Proof.Machine.execM2mfLineCount p s
  | .m2mfFormat p => Sys2Proof.Machine.execM2mfFormat p s
  | .m2mfBufferNotify p => Sys2Proof.Machine.execM2mfBufferNotify p s
  | .d3dDmaColor p => Sys2Proof.Machine.execD3dDmaColor p s
  | .d3dDmaZeta p => Sys2Proof.Machine.execD3dDmaZeta p s
  | .d3dSurfaceFormat p => Sys2Proof.Machine.execD3dSurfaceFormat p s
  | .d3dSurfacePitch p => Sys2Proof.Machine.execD3dSurfacePitch p s
  | .d3dColorOffset p => Sys2Proof.Machine.execD3dColorOffset p s
  | .d3dZetaOffset p => Sys2Proof.Machine.execD3dZetaOffset p s
  | .d3dZclearValue p => Sys2Proof.Machine.execD3dZclearValue p s
  | .d3dCclearValue p => Sys2Proof.Machine.execD3dCclearValue p s
  | .d3dClear p => Sys2Proof.Machine.execD3dClear p s
  | .d3dClearRectH p => Sys2Proof.Machine.execD3dClearRectH p s
  | .d3dClearRectV p => Sys2Proof.Machine.execD3dClearRectV p s

end Sys2Proof.Machine
end

