-- ==== Sys2Proof/Machine/ContextSwitch.lean ====
section
/-! DEFINITION. The context switch manager (44_context_switch.md R310 to R315) and the tick's test of a channel
(45_host_access.md R344). -/
namespace Sys2Proof.Machine

open Sys2Proof

/-- `FC_BASE` (R30), in the configured field. -/
def fcBase (s : State) : Word := s.cfg.ramfc.address s.ctl.ramfc

/-- `Slot(c)` (R310), modulo 2^32 and not checked against `VRAM_SIZE`. -/
def slotAddr (s : State) (c : ChanId) : Word := fcBase s + chidWord c * fcStride s.cfg.layout

/-- The five stores of a context switch into a slot (R311). -/
def saveLive (slot : Word) (s : State) : State :=
  let f := s.cfg.fcOff
  devWrite (slot + f.sema) 4 s.live.semaphore
    (devWrite (slot + f.dma) 4 s.live.dmaInstance
      (devWrite (slot + f.ref) 4 s.live.ref
        (devWrite (slot + f.get) 4 s.live.get
          (devWrite (slot + f.put) 4 s.live.put s))))

/-- The five loads of a context switch from a slot (R311). -/
def loadLive (slot : Word) (s : State) : Live where
  put := devRead s (slot + s.cfg.fcOff.put) 4
  get := devRead s (slot + s.cfg.fcOff.get) 4
  ref := devRead s (slot + s.cfg.fcOff.ref) 4
  dmaInstance := devRead s (slot + s.cfg.fcOff.dma) 4
  semaphore := devRead s (slot + s.cfg.fcOff.sema) 4

/-- `ContextSwitch(n)` (R311): one indivisible step (R314). -/
def contextSwitch (n : ChanId) (s : State) : State :=
  let s1 := saveLive (slotAddr s s.cur) s
  { s1 with live := loadLive (slotAddr s n) s1, ctl := { s1.ctl with curchan := chidWord n } }

/-- The first half of `Run(c)` (R313): make channel `c` current. -/
def makeCurrent (c : ChanId) (s : State) : State := if c = s.cur then s else contextSwitch c s

/-- `Pending(c)` (R344). -/
def pending (s : State) (c : ChanId) : Bool :=
  if c = s.cur then s.live.get != s.live.put
  else devRead s (slotAddr s c + s.cfg.fcOff.get) 4 != devRead s (slotAddr s c + s.cfg.fcOff.put) 4

end Sys2Proof.Machine
end

