-- ==== Sys2Proof/Machine/HostPort.lean ====
section
/-! DEFINITION. The host interface (45_host_access.md): the register space, the control registers, the apertures, the
retrace tick and the other ports. -/
namespace Sys2Proof.Machine

open Sys2Proof

/-! ## Control registers -/

/-- The access kinds of R28. -/
inductive Access where
  | ro | rw | w1c
deriving DecidableEq, Repr

/-- The access kind of a register (R28). -/
def accessOf : Reg → Access
  | .intr => .ro
  | .busIntr | .fifoIntr | .grIntr | .crtcIntr | .grNsource => .w1c
  | .intrEn | .busIntrEn | .fifoIntrEn | .grIntrEn | .crtcIntrEn | .fifoRamht | .fifoRamfc | .fifoAcquire
  | .fifoCurchan | .fifoSemaphore | .fifoDmaInstance | .fifoPut | .fifoGet | .fifoRef => .rw

/-- `IMPL(X)`, the implemented bits (R326): those of the fields that the register's rule lists (R28), where the
configuration has them; `cur` is bits 4 to 0 of FIFO_CURCHAN in every device (R11). -/
def implMask (cfg : Config) : Reg → Word
  | .fifoCurchan => 0x0000001F
  | .fifoRamht => cfg.ramht.base.field.mask ||| cfg.ramht.size.mask
  | .fifoRamfc => cfg.ramfc.field.mask
  | .fifoAcquire => bitMask cfg.bits.acquire
  | .intrEn => bitMask cfg.bits.globalEnable
  | .intr | .busIntr | .busIntrEn | .fifoIntr | .fifoIntrEn | .fifoSemaphore | .fifoDmaInstance | .fifoPut | .fifoGet
  | .fifoRef | .grIntr | .grNsource | .grIntrEn | .crtcIntr | .crtcIntrEn => 0xFFFFFFFF

/-- Whether a host write of the register re-evaluates the interrupt line (R325 (b), R328). -/
def movesIrq : Reg → Bool
  | .intrEn | .busIntr | .busIntrEn | .fifoIntr | .fifoIntrEn | .grIntr | .grNsource | .grIntrEn | .crtcIntr
  | .crtcIntrEn => true
  | .intr | .fifoRamht | .fifoRamfc | .fifoAcquire | .fifoCurchan | .fifoSemaphore | .fifoDmaInstance | .fifoPut
  | .fifoGet | .fifoRef => false

/-- What a register reads as; `INTR` is computed (R32, R329). -/
def regGet (s : State) : Reg → Word
  | .intr => intrWord s.cfg.bits s.ctl
  | .intrEn => s.ctl.intrEn
  | .busIntr => s.ctl.busIntr
  | .busIntrEn => s.ctl.busIntrEn
  | .fifoIntr => s.ctl.fifoIntr
  | .fifoIntrEn => s.ctl.fifoIntrEn
  | .fifoRamht => s.ctl.ramht
  | .fifoRamfc => s.ctl.ramfc
  | .fifoAcquire => s.ctl.acquire
  | .fifoCurchan => s.ctl.curchan
  | .fifoSemaphore => s.live.semaphore
  | .fifoDmaInstance => s.live.dmaInstance
  | .fifoPut => s.live.put
  | .fifoGet => s.live.get
  | .fifoRef => s.live.ref
  | .grIntr => s.ctl.grIntr
  | .grNsource => s.ctl.grNsource
  | .grIntrEn => s.ctl.grIntrEn
  | .crtcIntr => s.ctl.crtcIntr
  | .crtcIntrEn => s.ctl.crtcIntrEn

/-- Store a register that holds state; `INTR` holds none. -/
def regSet (r : Reg) (v : Word) (s : State) : State :=
  match r with
  | .intr => s
  | .intrEn => { s with ctl := { s.ctl with intrEn := v } }
  | .busIntr => { s with ctl := { s.ctl with busIntr := v } }
  | .busIntrEn => { s with ctl := { s.ctl with busIntrEn := v } }
  | .fifoIntr => { s with ctl := { s.ctl with fifoIntr := v } }
  | .fifoIntrEn => { s with ctl := { s.ctl with fifoIntrEn := v } }
  | .fifoRamht => { s with ctl := { s.ctl with ramht := v } }
  | .fifoRamfc => { s with ctl := { s.ctl with ramfc := v } }
  | .fifoAcquire => { s with ctl := { s.ctl with acquire := v } }
  | .fifoCurchan => { s with ctl := { s.ctl with curchan := v } }
  | .fifoSemaphore => { s with live := { s.live with semaphore := v } }
  | .fifoDmaInstance => { s with live := { s.live with dmaInstance := v } }
  | .fifoPut => { s with live := { s.live with put := v } }
  | .fifoGet => { s with live := { s.live with get := v } }
  | .fifoRef => { s with live := { s.live with ref := v } }
  | .grIntr => { s with ctl := { s.ctl with grIntr := v } }
  | .grNsource => { s with ctl := { s.ctl with grNsource := v } }
  | .grIntrEn => { s with ctl := { s.ctl with grIntrEn := v } }
  | .crtcIntr => { s with ctl := { s.ctl with crtcIntr := v } }
  | .crtcIntrEn => { s with ctl := { s.ctl with crtcIntrEn := v } }

/-- The value a register takes under a write of the lanes `m` of `v` (R326, R328). -/
def regWritten (cfg : Config) (r : Reg) (old v m : Word) : Word :=
  match accessOf r with
  | .ro => old
  | .rw => merge old v m &&& implMask cfg r
  | .w1c => old &&& ~~~(v &&& m)

/-- `WriteWord` on a control register (R326 to R331, R336). -/
def regWrite (r : Reg) (v m : Word) (s : State) : State :=
  let s1 := regSet r (regWritten s.cfg r (regGet s r) v m) s
  if movesIrq r then updateIrq s1 else s1

/-! ## The register space -/

/-- The three offsets of the per-channel aperture (R332). -/
inductive Shadow where
  | put | get | ref
deriving DecidableEq, Repr

/-- What an aligned word address of the register space selects (R323). -/
inductive Place where
  | reg (r : Reg)
  /-- object-table aperture, at a device memory address (R324) -/
  | object (d : Nat)
  /-- per-channel aperture (R332) -/
  | shadow (c : ChanId) (f : Shadow)
  /-- not in this block, or an offset of the per-channel aperture that is not implemented (R321, R332) -/
  | nothing
deriving DecidableEq, Repr

/-- The field an offset of the per-channel aperture names (R332); the offsets are the configuration's. DESIGN CHOICE (log
entry 20): where a configuration gives two fields one offset, put comes before get, and get before ref. -/
def shadowAt (cfg : Config) (o : Nat) : Option Shadow :=
  if o = cfg.chApOff.put then some .put
  else if o = cfg.chApOff.get then some .get
  else if o = cfg.chApOff.ref then some .ref
  else none

/-- The map of R320 and R323, on an aligned word address; every number but the size of the space is the
configuration's. The space ends at `0xFFFFFF` (log entry 19). DESIGN CHOICE (log entry 20), for configurations whose
places coincide, which the defaults do not have: of two control registers with one offset the first entry of `regMap`
is taken; a control register wins over an aperture, and the object-table aperture over the per-channel one. -/
def place (cfg : Config) (a : Nat) : Place :=
  if 0x1000000 ≤ a then .nothing
  else match cfg.regMap.find? (fun e => e.1 == a) with
    | some e => .reg e.2
    | none =>
      if cfg.objApBase ≤ a ∧ a < cfg.objApBase + cfg.objApSize then .object (a - cfg.objApBase)
      else if cfg.chApBase ≤ a ∧ a < cfg.chApBase + 32 * cfg.chApStride then
        match shadowAt cfg ((a - cfg.chApBase) % cfg.chApStride) with
        | some f => .shadow (BitVec.ofNat 5 ((a - cfg.chApBase) / cfg.chApStride)) f
        | none => .nothing
      else .nothing

/-- The live register that a field of the per-channel aperture shows for the current channel (R333). -/
def liveField (s : State) : Shadow → Word
  | .put => s.live.put
  | .get => s.live.get
  | .ref => s.live.ref

/-- The place of a field in the save area (R310). -/
def savedField (cfg : Config) : Shadow → Word
  | .put => cfg.fcOff.put
  | .get => cfg.fcOff.get
  | .ref => cfg.fcOff.ref

/-- `ReadWord(A)` (R323, R324, R326, R329, R333, R321); no read has a side effect (R322). -/
def readWord (s : State) (a : Nat) : Word :=
  match place s.cfg a with
  | .reg r => regGet s r
  | .object d => devRead s (BitVec.ofNat 32 d) 4
  | .shadow c f => if c = s.cur then liveField s f else devRead s (slotAddr s c + savedField s.cfg f) 4
  | .nothing => 0

/-- A write through the object-table aperture: the lanes of `m`, ascending, one byte each (R324). -/
def objectWrite (d : Nat) (v m : Word) (s : State) : State :=
  loop 4 (fun k s1 =>
    if byteOf m.toNat k ≠ 0 then devWrite (BitVec.ofNat 32 (d + k)) 1 ((byteOf v.toNat k).setWidth 32) s1 else s1) s

/-- Start a drain of the current channel (R151): it is the next thing done. -/
def startDrain (s : State) : State := { s with tasks := .drain :: s.tasks }

/-- A write of the put location (R335): the current channel drains; any other keeps the value in its save slot. -/
def putWrite (c : ChanId) (v m : Word) (s : State) : State :=
  if c = s.cur then startDrain { s with live := { s.live with put := merge s.live.put v m } }
  else
    let a := slotAddr s c + s.cfg.fcOff.put
    devWrite a 4 (merge (devRead s a 4) v m) s

/-- `WriteWord(A, V, M)` (R323, R324, R326 to R331, R334 to R336, R321). -/
def writeWord (a : Nat) (v m : Word) (s : State) : State :=
  match place s.cfg a with
  | .reg r => regWrite r v m s
  | .object d => objectWrite d v m s
  | .shadow c .put => putWrite c v m s
  | .shadow _ .get => s
  | .shadow _ .ref => s
  | .nothing => s

/-! ## Host accesses -/

/-- The byte lanes of the aligned word at `w` that lie in `[a, a + n - 1]` (R322), as the mask `M`. -/
def laneMask (a n w : Nat) : Word :=
  let lane (k : Nat) : Word := if a ≤ w + k ∧ w + k < a + n then 0xFF <<< (8 * k) else 0
  lane 0 ||| lane 1 ||| lane 2 ||| lane 3

/-- The data bytes of a write at `a` in the lanes of the aligned word at `w`, zero elsewhere (R322). -/
def laneData (a n : Nat) (data : BitVec 64) (w : Nat) : Word :=
  let lane (k : Nat) : Word :=
    if a ≤ w + k ∧ w + k < a + n then ((byteOf data.toNat (w + k - a)).setWidth 32) <<< (8 * k) else 0
  lane 0 ||| lane 1 ||| lane 2 ||| lane 3

/-- The aligned words an access of `n` bytes at `a` touches, ascending (R322); at most three. -/
def touched (a n : Nat) : List Nat :=
  (List.range 3).filterMap (fun k => if a / 4 * 4 + 4 * k < a + n then some (a / 4 * 4 + 4 * k) else none)

/-- The word operations of a host write, in ascending address order (R322). -/
def writeOps (a n : Nat) (data : BitVec 64) : List Task :=
  (touched a n).map (fun w => .word w (laneData a n data w) (laneMask a n w))

/-- The result byte of a host read for one address (R322). -/
def readByteAt (s : State) (a : Nat) : Byte := byteOf (readWord s (a / 4 * 4)).toNat (a % 4)

/-- The result of a host read of `n` bytes at `a`, little-endian (R322). -/
def hostRead (s : State) (a : Nat) : Nat → Nat
  | 0 => 0
  | n + 1 => (readByteAt s a).toNat + 256 * hostRead s (a + 1) n

/-! ## The other ports -/

/-- An answer to another agent. -/
def reply (r : Reply) (s : State) : State := { s with replies := s.replies ++ [r] }

/-- The register `ExtRaise` names. -/
def extReg : ExtReg → Reg
  | .busIntr => .busIntr
  | .fifoIntr => .fifoIntr
  | .grIntr => .grIntr
  | .crtcIntr => .crtcIntr
  | .grNsource => .grNsource

/-- `ExtRaise(X, bits)` (R347, R371). -/
def extRaise (x : ExtReg) (bits : Word) (s : State) : State :=
  updateIrq (regSet (extReg x) (regGet s (extReg x) ||| bits) s)

/-- `PendTake()` (R346). -/
def pendTake (s : State) : State :=
  match s.pendq with
  | [] => reply (.pend none) s
  | e :: q => reply (.pend (some e)) { s with pendq := q }

/-- `Reset()` (R348, R400): the block's state but device memory; then the interrupt line is presented (R374). The
model's own fields stay (log entry 12). -/
def resetBlock (s : State) : State := updateIrq { s with toBlock := Block.reset s.dev }

/-- A restore (R349): the whole state of 10_state.md is replaced. -/
def restoreBlock (b : Block) (s : State) : State := updateIrq { s with toBlock := b }

/-- The first part of `Tick()` (R343): with the acquire flag clear the tick does nothing at all. -/
def startTick (s : State) : State :=
  if acquireFlag s.cfg.bits s.ctl then { s with tasks := .tick 0 :: s.tasks } else s

/-- What another agent does to the machine (R7). -/
def takeInput (i : Input) (s : State) : State :=
  match i with
  | .read a size => reply (.value (BitVec.ofNat 64 (hostRead s a.toNat (size.val + 1)))) s
  | .write a size data => { s with tasks := writeOps a.toNat (size.val + 1) data ++ s.tasks }
  | .tick => startTick s
  | .extRaise x bits => extRaise x bits s
  | .pendTake => pendTake s
  | .reset => resetBlock s
  | .snapshot => reply (.snapshot s.toBlock) s
  | .restore b => restoreBlock b s

/-! ## The channel loop of the tick -/

/-- One round of the loop of `Tick()` (R343), for channel `c`, the tasks after the tick being `ts`: a pending channel is
made current and drained before the loop goes on; after channel 31 the flag is cleared. -/
def tickRound (c : Nat) (ts : List Task) (s : State) : State :=
  if c < 32 then
    let id : ChanId := BitVec.ofNat 5 c
    if pending s id then { makeCurrent id s with tasks := .drain :: .tick (c + 1) :: ts }
    else { s with tasks := .tick (c + 1) :: ts }
  else clearAcquire { s with tasks := ts }

end Sys2Proof.Machine
end

