-- ==== Sys2Proof/Machine/Fetch.lean ====
section
/-! DEFINITION. The fetch of a command word (40_command_words.md R152, 20_memory.md R87), the parts of a step that are
not an instruction, and how a given word is placed where the next step fetches it. -/
namespace Sys2Proof.Machine

open Sys2Proof

/-! ## Fetch -/

/-- The DMA object of the current channel's pushbuffer: `REG.FIFO_DMA_INSTANCE << 4` (R26, R152). -/
def pushbuffer (s : State) : Word := s.live.dmaInstance <<< 4

/-- `GET <- g + 4`, modulo 2^32 (R152). -/
def advanceGet (s : State) : State := { s with live := { s.live with get := s.live.get + 4 } }

/-- The first two lines of `Step(c)` (R152): the word at the cursor, and the cursor past it. -/
def fetchWord (s : State) : Word × State :=
  let r := dmaRead (pushbuffer s) s.live.get 4 s
  (r.1, advanceGet r.2)

/-- Whether the drain that is in progress is done (R151). -/
def drained (s : State) : Bool := s.live.get == s.live.put

/-! ## Steps that run no instruction -/

/-- A step between two host accesses: the next input, or nothing while there is none (log entry 7). -/
def idleStep (s : State) : State :=
  match s.inputs with
  | [] => s
  | i :: is => takeInput i { s with inputs := is }

/-! ## Placing a word where the next step fetches it -/

/-- Where `withFetchWord` puts the pushbuffer's DMA object, the command word, and the object of a method row. -/
def fetchObject : Word := 0x1000
/-- See `fetchObject`. -/
def fetchTarget : Word := 0x2000
/-- See `fetchObject`. -/
def methodObject : Word := 0x3000

/-- The first id under which a class is configured (R132). -/
def idOf (cfg : Config) (c : Cls) : Word := ((cfg.clsIds.find? (fun e => e.2 == c)).map (·.1)).getD 0

/-- The pushbuffer of one word: a linear DMA object on device memory (R80, R81) and the word at its offset 0, with a
drain in progress. -/
def placeWord (w : Word) (s : State) : State :=
  let s1 := devWrite fetchTarget 4 w (devWrite (fetchObject + 8) 4 fetchTarget (devWrite fetchObject 4 0x2000 s))
  { s1 with tasks := [.drain], live := { s1.live with get := 0, put := 4, dmaInstance := fetchObject >>> 4 } }

/-- Control mode in the current channel. -/
def placeControl (s : State) : State := modCh (fun x => { x with remaining := 0 }) s

/-- Parameter mode in the current channel: one parameter is due, for a method of subchannel 0, which is bound to an
object of the graphics engine whose class is the one the method number is read for. -/
def placeMethod (m : Mthd) (s : State) : State :=
  let id := match tableClass m with
    | some c => idOf s.cfg c
    | none => 0
  modCh (fun x => Channel.setSub { x with remaining := 1, subc := 0, mthd := s.cfg.mthds.deviceNumber (tableClass m) m,
                                             ni := false } 0
      { x.subAt 0 with object := methodObject, engine := s.cfg.engGr })
    (devWrite methodObject 4 id s)

end Sys2Proof.Machine
end

