-- ==== Sys2Proof/Machine/Step.lean ====
section
/-! DEFINITION. One step of the machine (log entry 8): inside a drain one command word, inside a host write one word
operation, inside a tick one channel; between accesses one input. -/
namespace Sys2Proof.Machine

open Sys2Proof

/-- One pass of the drain loop (R151, R152, R153, R160): the word at the cursor is fetched, decoded in the parse slot of
the current channel, and executed; at `GET = PUT` the loop is left. -/
def drainStep (s : State) : Host.Outcome State Fault Refusal :=
  if drained s then .next (endDrain s)
  else exec (decodeWord s.slot (fetchWord s).1) (fetchWord s).2

/-- One step of the machine. -/
def step (s : State) : Host.Outcome State Fault Refusal :=
  match s.tasks with
  | .drain :: _ => drainStep s
  | .word a v m :: ts => .next (writeWord a v m { s with tasks := ts })
  | .tick c :: ts => .next (tickRound c ts s)
  | [] => .next (idleStep s)

/-- The state with an instruction of the opcode table placed where the next step fetches it, numbered as
`decodeTableWord` numbers it (log entry 13). -/
def State.withFetchWord (s : State) (nbits w : Nat) : State :=
  if nbits < 32 then placeMethod (BitVec.ofNat 11 w) (placeWord 0 s)
  else placeControl (placeWord (BitVec.ofNat 32 w) s)

end Sys2Proof.Machine
end

