-- ==== Sys2Proof/Safety.lean ====
section
/-! DEFINITION. The words the statements are written in: when a parameter word runs through undisturbed, what a
handle-valued parameter becomes, views of surfaces in device memory, and the invariants every step keeps. A safe run is
one whose every step answers a next state; nothing stops this machine (60_exceptions.md R361). -/
namespace Sys2Proof

/-! ## Instructions by kind -/

/-- A parameter word (R160), not a control word. -/
def Instr.isParameter (i : Instr) : Bool :=
  match encodeSlot i with
  | .control => false
  | .param _ _ => true
  | .noRow => true

/-- A method of one of the nine classes (R196), after which the notification step runs (R189). -/
def Instr.isClassMethod (i : Instr) : Bool :=
  match encodeSlot i with
  | .param (.graphics (some _)) _ => true
  | _ => false

end Sys2Proof

namespace Sys2Proof.Machine

open Sys2Proof

/-! ## Parameter words -/

/-- The oracle lets the next parameter word through (R195) and no notification is armed (R187). -/
def Ready (s : State) : Prop := s.failNext = .no ∧ s.ch.notifyArmed = false

/-- What a parameter word leaves when all it does to the current channel's record is `f`: that, the parser's
bookkeeping of R160 (the method advances unless `ni`, `remaining` decreases), and one oracle answer used. Where
`remaining` is 0, which no step meets in a parameter word, the subtraction is modulo 2^11: the model's choice, log entry
21. -/
def afterParam (f : Channel → Channel) (s : State) : State :=
  modCh (fun x => { f x with
      mthd := if x.ni then x.mthd else if s.cfg.mthdWrap then (x.mthd + 1) &&& 0x7FF else x.mthd + 1,
      remaining := x.remaining - 1 })
    { s with failIn := s.failIn.tail }

/-- What a handle-valued parameter becomes (R186, R188): the object address, or itself where the lookup fails. -/
def handleValue (s : State) (p : Word) : Word :=
  match hashFind s p s.cur with
  | some r => r.1
  | none => p

/-- What the lookup of a handle logs (R94). -/
def handleEvents (s : State) (p : Word) : List Event :=
  match hashFind s p s.cur with
  | some _ => []
  | none => [.ev2 p s.cur]

/-- What the handler of a method gets as its parameter (R186, R189): under a number of the handle range what the handle
becomes, under any other the parameter as it is. `m` is the device's number of the method. -/
def paramValue (s : State) (m p : Word) : Word := if s.cfg.mthds.takesHandle m then handleValue s p else p

/-- What the re-resolution of a parameter logs (R186): the failed lookup of a handle, and nothing else. -/
def paramEvents (s : State) (m p : Word) : List Event := if s.cfg.mthds.takesHandle m then handleEvents s p else []

/-- What the re-resolution of a parameter leaves (R186). -/
def resolved (s : State) (m p : Word) : State := { s with events := s.events ++ paramEvents s m p }

/-- What a dispatch failure leaves (R160, R161): `EV8`, the cursor back on the word, the drain left. -/
def failed (p : Word) (s : State) : State :=
  { s with events := s.events ++ [.ev8 s.cur (s.live.get - 4) p],
           live := { s.live with get := s.live.get - 4 },
           tasks := match s.tasks with
                    | .drain :: ts => ts
                    | ts => ts }

/-! ## Surfaces in device memory -/

/-- `obj` is a linear DMA object on device memory (R80, R81) whose words lie in device memory, and every address of
device memory is a word (R70). -/
def LinearDev (s : State) (obj : Word) : Prop :=
  s.cfg.vramSize ≤ 2 ^ 32 ∧ obj.toNat + 12 ≤ s.cfg.vramSize
    ∧ field 17 17 (devRead s obj 4) = 0 ∧ field 13 13 (devRead s obj 4) = 1

/-- Where a linear DMA object starts: `base + adjust` (R84, R89). -/
def viewBase (s : State) (obj : Word) : Word :=
  (devRead s (obj + 8) 4 &&& pageMask) + (devRead s obj 4 >>> 20)

/-- The address of the element at column `x` and row `y` of a plane of elements of `b` bytes, rows `pitch` bytes apart,
from offset `ofs` of the object on (R231, R300). -/
def elemAddr (s : State) (obj ofs : Word) (pitch b x y : Nat) : Nat :=
  (viewBase s obj).toNat + ofs.toNat + y * pitch + x * b

/-- A rectangle of elements of a linear view that lies in device memory, whose elements do not share bytes, and which
does not cover the view's own descriptor. -/
def PlaneOk (s : State) (obj ofs : Word) (pitch b x0 y0 w h : Nat) : Prop :=
  LinearDev s obj
    ∧ elemAddr s obj ofs pitch b (x0 + w) (y0 + h) ≤ s.cfg.vramSize
    ∧ (w * b ≤ pitch ∨ h ≤ 1)
    ∧ (obj.toNat + 12 ≤ elemAddr s obj ofs pitch b x0 y0
        ∨ elemAddr s obj ofs pitch b (x0 + w) (y0 + h) ≤ obj.toNat)

/-- The selected elements of a rectangle, and no other byte of device memory, were written: byte `k` of element `(i, j)`
is `v i j k`. Addresses are those of the state `s` before. -/
def Painted (s t : State) (obj ofs : Word) (pitch b x0 y0 w h : Nat) (sel : Nat → Nat → Bool)
    (v : Nat → Nat → Nat → Byte) : Prop :=
  (∀ i j k, i < w → j < h → k < b → sel i j = true →
      getByte t.dev (elemAddr s obj ofs pitch b (x0 + i) (y0 + j) + k) = v i j k)
    ∧ ∀ a, (∀ i j k, i < w → j < h → k < b → sel i j = true →
        a ≠ elemAddr s obj ofs pitch b (x0 + i) (y0 + j) + k) → getByte t.dev a = getByte s.dev a

/-- The rectangle of the 2D surface's destination (R231). -/
def DstOk (s : State) (x0 y0 w h : Nat) : Prop :=
  PlaneOk s s.ch.surf.dstObj s.ch.surf.ofsDst s.dstPitch s.bppNow x0 y0 w h

/-- Pixels of the 2D surface's destination were written. -/
def DstPainted (s t : State) (x0 y0 w h : Nat) (sel : Nat → Nat → Bool)
    (v : Nat → Nat → Nat → Byte) : Prop :=
  Painted s t s.ch.surf.dstObj s.ch.surf.ofsDst s.dstPitch s.bppNow x0 y0 w h sel v

/-! ## Items of any object -/

/-- The words of device memory through which `DmaXlate(obj, off)` goes (R84): the first word of the descriptor, and the
third of a linear one or the entry of the page in a paged one. -/
def xlateReads (s : State) (obj off : Word) : List Word :=
  let word0 := devRead s obj 4
  let page : Word := (off + (word0 >>> 20)) >>> 12
  [obj, if word0.getLsbD 13 = true then obj + 8 else obj + 8 + page * 4]

/-- `size` bytes at an offset of a DMA object: what one `DmaWrite` stores (R86). -/
structure Item where
  obj : Word
  off : Word
  size : Nat
deriving DecidableEq, Repr

/-- The item lies in device memory, and the address is one of its bytes: one translation, for its first byte (R86). -/
def Item.covers (s : State) (c : Item) (a : Nat) : Prop :=
  let x := dmaXlate s c.obj c.off
  x.1 = .dev ∧ x.2.toNat + c.size ≤ s.cfg.vramSize ∧ x.2.toNat ≤ a ∧ a < x.2.toNat + c.size

/-- No item covers a byte of a word through which one of them is translated: storing them moves none of them. -/
def Steady (s : State) (cs : List Item) : Prop :=
  ∀ c ∈ cs, ∀ a, c.covers s a → ∀ d ∈ cs, ∀ r ∈ xlateReads s d.obj d.off, a < r.toNat ∨ r.toNat + 4 ≤ a

/-- Values were stored in items one after another, each where the translation in `s` puts it: the last one to cover a
byte decides it, no other byte of device memory changed, and system memory got one write request for each of its items
(R76). -/
def Stored (s t : State) (ws : List (Item × Word)) : Prop :=
  (∀ a, (∀ w ∈ ws, ¬ w.1.covers s a) → getByte t.dev a = getByte s.dev a)
    ∧ (∀ us w vs, ws = us ++ w :: vs → ∀ k, k < w.1.size →
        let a := (dmaXlate s w.1.obj w.1.off).2.toNat + k
        w.1.covers s a → (∀ v ∈ vs, ¬ v.1.covers s a) → getByte t.dev a = byteOf w.2.toNat k)
    ∧ ((∀ w ∈ ws, (dmaXlate s w.1.obj w.1.off).1 = .sys) → t.dev = s.dev)
    ∧ t.sysBus = s.sysBus ++ ws.filterMap (fun w =>
        if (dmaXlate s w.1.obj w.1.off).1 = .sys then
          some (.write (dmaXlate s w.1.obj w.1.off).2 w.1.size (BitVec.ofNat 32 (w.2.toNat % 2 ^ (8 * w.1.size))))
        else none)

/-- The elements of a rectangle, row by row, `w` in each of `h` rows. -/
def grid {α : Type} (w h : Nat) (f : Nat → Nat → List α) : List α :=
  (List.range h).flatMap (fun j => (List.range w).flatMap (fun i => f i j))

/-! ## Invariants -/

/-- Device memory in canonical form, and no address beyond `VRAM_SIZE` listed (R52). -/
def DevOk (cfg : Config) (m : Memory) : Prop := m.wf = true ∧ ∀ e ∈ m, e.1 < cfg.vramSize

/-- Unimplemented bits read 0 (R28, R326): the registers of which not every bit is implemented. -/
def Ctl.reservedZero (cfg : Config) (r : Ctl) : Prop :=
  r.curchan &&& ~~~implMask cfg .fifoCurchan = 0 ∧ r.ramht &&& ~~~implMask cfg .fifoRamht = 0
    ∧ r.ramfc &&& ~~~implMask cfg .fifoRamfc = 0 ∧ r.acquire &&& ~~~implMask cfg .fifoAcquire = 0
    ∧ r.intrEn &&& ~~~implMask cfg .intrEn = 0

/-- The upload buffer and its count agree with the state of the upload (R269, R270): a streaming upload still wants
words, any other state has no buffer. -/
def IfcState.consistent (y : IfcState) : Prop :=
  match y.state with
  | .streaming => y.buf.length < y.need
  | .configuring => y.buf = [] ∧ y.need = 0
  | .fastPath => y.buf = [] ∧ y.need = 0

/-- Every upload record of a block is consistent. -/
def Block.uploadsOk (b : Block) : Prop := ∀ c : ChanId, (b.chans[c.toNat]'c.isLt).ifc.consistent

/-- Every block a restore will bring in meets `P` (a restore brings in "a saved one", R349). -/
def RestoresMeet (P : Block → Prop) (s : State) : Prop := ∀ b, Input.restore b ∈ s.inputs → P b

/-- Device memory stays in its form. -/
def MemoryInv (s : State) : Prop := DevOk s.cfg s.dev ∧ RestoresMeet (fun b => DevOk s.cfg b.dev) s

/-- Unimplemented register bits stay 0. -/
def RegisterInv (s : State) : Prop := s.ctl.reservedZero s.cfg ∧ RestoresMeet (fun b => b.ctl.reservedZero s.cfg) s

/-- Upload records stay consistent. -/
def UploadInv (s : State) : Prop := s.toBlock.uploadsOk ∧ RestoresMeet Block.uploadsOk s

/-- The level last presented to the interrupt-line sink is the line (R374); nothing presented yet reads as low. -/
def LineInv (s : State) : Prop := s.irqOut.getLastD false = irqLine s.cfg.bits s.ctl

/-- No drain waits behind another task: one channel drains at a time (R150). -/
def DrainInv (s : State) : Prop := Task.drain ∉ s.tasks.tail

end Sys2Proof.Machine
end

