-- ==== Sys2Proof/Certificates/Slice0/Obligations.lean ====
section
/-! DEFINITION. The statements for the provers, each a proposition about the model; its docstring names the rules of the
spec it rests on. -/

open Sys2Proof Sys2Proof.Machine

/-! ## Decoding and encoding -/

/-- Decoding the four bytes of an encoded well-formed instruction, in the slot it stands in, gives it back, with every
operand at every value the encoding admits, and leaves the bytes that follow (30_encoding.md R120 to R129, R131, R133,
R135). -/
def Obligations.DecodeOfEncode : Prop :=
  ∀ (i : Instr) (rest : List Byte), i.wf = true →
    decodeBytes (encode i).1 (wordBytes (encode i).2 ++ rest) = .ok (i, rest)

/-- Every word, in every parse slot, decodes to a well-formed instruction whose word it is: no word is left out and no
bit is dropped (30_encoding.md R121, R127, R128, R129). -/
def Obligations.EveryWordIsOneRow : Prop :=
  ∀ (slot : Slot) (w : Word), (decodeWord slot w).wf = true ∧ encodeWord (decodeWord slot w) = w

/-- Words written out from the spec's encodings and examples decode to what they stand for (30_encoding.md R122 to
R127, 40_command_words.md R154 to R159). -/
def Obligations.SampleWords : Prop :=
  decodeWord .control 0x20000100 = .jmpl 0x100
    ∧ decodeWord .control 0x00001001 = .jmp 0x1000
    ∧ decodeWord .control 0x00000202 = .call 0x200
    ∧ decodeWord .control 0x00020000 = .ret
    ∧ decodeWord .control 0x00084200 = .hdr 2 0x80 2
    ∧ decodeWord .control 0x40084200 = .hdrNi 2 0x80 2
    ∧ decodeWord .control 0x00000003 = .badLow11 0x00000003
    ∧ decodeWord .control 0x80000000 = .badB31 0x80000000
    ∧ decodeWord .control 0x60000000 = .badB3029 0x60000000
    ∧ decodeWord .control 0x00030000 = .badB16 0x00030000
    ∧ decodeWord .control 0x40020000 = .badB17 0x40020000
    ∧ decodeWord (.param .software 0x014) 7 = .refCnt 7
    ∧ decodeWord (.param (.graphics (some .patt)) 0x103) 0x04030201 = .pattIdx 3 0x04030201
    ∧ decodeWord (.param (.graphics (some .gdi)) 0x107) 1 = .gdiUnclippedSize 3 1

/-! ## The step -/

/-- Inside a drain, a step at `GET` other than `PUT` runs the instruction that the four bytes at the cursor decode to
in the current parse slot, with the cursor moved past them; a word outside device memory is 0, a word of system memory
is the environment's. At `GET = PUT` the drain is left and nothing else changes (40_command_words.md R151, R152). -/
def Obligations.StepRunsTheDecodedWord : Prop :=
  ∀ (s : State) (ts : List Task), s.tasks = .drain :: ts →
    (s.live.get = s.live.put → step s = .next { s with tasks := ts })
    ∧ (s.live.get ≠ s.live.put →
        let x := dmaXlate s (s.live.dmaInstance <<< 4) s.live.get
        let s' : State := { s with live := { s.live with get := s.live.get + 4 } }
        (∀ i, x.1 = .dev → x.2.toNat + 4 ≤ s.cfg.vramSize →
            decodeBytes s.slot [getByte s.dev x.2.toNat, getByte s.dev (x.2.toNat + 1),
              getByte s.dev (x.2.toNat + 2), getByte s.dev (x.2.toNat + 3)] = .ok (i, []) → step s = exec i s')
        ∧ (x.1 = .dev → s.cfg.vramSize < x.2.toNat + 4 → step s = exec (decodeWord s.slot 0) s')
        ∧ (x.1 = .sys → step s = exec (decodeWord s.slot (Config.sysReadValue s.sysReads))
              { s' with sysReads := s.sysReads + 1, sysBus := s.sysBus ++ [.read x.2 4] }))

/-- No step ends in a fault or a refusal, from any state (60_exceptions.md R361, R364). -/
def Obligations.NeverStops : Prop :=
  (∀ s : State, ∃ t, step s = .next t) ∧ ∀ (i : Instr) (s : State), ∃ t, exec i s = .next t

/-- The meaning of a parameter word taken as the row DATA is the meaning of the method row that the route and the
method number select, where they select one (40_command_words.md R160, 41_method_dispatch.md R180, R189); the method
number is the opcode table's of the method that the device has under the number in the word (00_scope.md R6). -/
def Obligations.DataRunsTheSelectedRow : Prop :=
  ∀ (p : Word) (s : State) (m : Word), s.rowNumber = some m → decodeParam s.route m p ≠ .data p →
    exec (.data p) s = exec (decodeParam s.route m p) s

/-- The method numbers are the configuration's (00_scope.md R6 `M_*`). With the default numbers every number names the
method that the opcode table lists under it. BIND is 0 and comes first, then REF_CNT, then, up to the last
channel-global number, no method, and above it the methods of the route (41_method_dispatch.md R180): a number names
the first method of the route's list that has it, shifted by its place in that method's run. The model's choice, log
entry 3: which method comes first where two share a number, and that a number which the opcode table gives to a method
with another number in the device, or to one of the other kind (below or from `0x040` on), names none. -/
def Obligations.MethodNumbersAreConfigured : Prop :=
  ∀ (s : State),
    let m := s.ch.mthd
    let n := s.cfg.mthds
    let has (e : MthdEntry) (first : Mthd) (k : Nat) : Prop :=
      k < e.count ∧ m.toNat = first.toNat + e.step * k ∧ m.toNat < 0x800
    (n = mthdsDefault → s.rowNumber = some m)
    ∧ (m = 0 → s.rowNumber = some 0)
    ∧ (m ≠ 0 → m = n.refCnt.setWidth 32 → s.rowNumber = some 0x014)
    ∧ (m ≠ 0 → m ≠ n.refCnt.setWidth 32 → m.toNat ≤ n.globalLast.toNat →
        s.rowNumber = if m = 0x014 ∨ 0x040 ≤ m.toNat then none else some m)
    ∧ (m ≠ n.refCnt.setWidth 32 → n.globalLast.toNat < m.toNat →
        (∀ es e rest k, n.onRoute s.route = es ++ e :: rest → 0 < e.step → has e e.base k →
          (∀ d ∈ es, ∀ k, ¬ has d d.base k) → s.rowNumber = some (BitVec.ofNat 32 (e.table.toNat + e.step * k)))
        ∧ ((∀ e ∈ n.onRoute s.route, ∀ k, ¬ has e e.base k) →
          (∀ e ∈ n.onRoute s.route, ∀ k, ¬ has e e.table k) →
          s.rowNumber = if 0x040 ≤ m.toNat then some m else none)
        ∧ ((∀ e ∈ n.onRoute s.route, ∀ k, ¬ has e e.base k) →
          ∀ e ∈ n.onRoute s.route, ∀ k, 0 < e.step → has e e.table k → s.rowNumber = none))
    ∧ (∀ r w, s.ch.remaining ≠ 0 → s.rowNumber = some r → decodeWord s.slot w = decodeParam s.route r w)
    ∧ (∀ w, s.ch.remaining ≠ 0 → s.rowNumber = none → decodeWord s.slot w = .data w)

/-- No command word writes the put cursor, the DMA instance, the semaphore, the current channel, the table bases, the
acquire flag or an enable, nor any record of another channel (10_state.md R22, R26, R27, 44_context_switch.md R312,
60_exceptions.md R383); and none leaves the drain or queues work unless the oracle makes its dispatch fail
(40_command_words.md R150, R151). -/
def Obligations.CommandWordsLeaveTheRest : Prop :=
  ∀ (i : Instr) (s : State), ∃ t, exec i s = .next t
    ∧ t.live.put = s.live.put ∧ t.live.dmaInstance = s.live.dmaInstance ∧ t.live.semaphore = s.live.semaphore
    ∧ t.ctl = { s.ctl with fifoIntr := t.ctl.fifoIntr, grIntr := t.ctl.grIntr, grNsource := t.ctl.grNsource }
    ∧ (∀ c, c ≠ s.cur → t.chan c = s.chan c)
    ∧ t.cfg = s.cfg ∧ t.inputs = s.inputs ∧ t.replies = s.replies
    ∧ ((s.failNext = .no ∨ i.isParameter = false) → t.tasks = s.tasks)

/-! ## Control words -/

/-- JMPL and JMP load the cursor and change nothing else (40_command_words.md R154, R155). -/
def Obligations.JumpsLoadTheCursor : Prop :=
  ∀ (s : State),
    (∀ w : Word, w &&& 0xE0000003 = 0x20000000 →
        exec (decodeControl w) s = .next { s with live := { s.live with get := w &&& 0x1FFFFFFF } })
    ∧ (∀ w : Word, w &&& 0x00000003 = 0x00000001 →
        exec (decodeControl w) s = .next { s with live := { s.live with get := w &&& 0xFFFFFFFC } })
    ∧ ∀ target : Word,
        exec (.jmpl target) s = .next { s with live := { s.live with get := target } }
        ∧ exec (.jmp target) s = .next { s with live := { s.live with get := target } }

/-- CALL saves the cursor, sets the flag and jumps, or is logged and ignored when a subroutine is active; RET restores
the cursor and clears the flag, or is logged and ignored (40_command_words.md R156, R157). `GET` is already the offset
of the next word. -/
def Obligations.CallAndReturn : Prop :=
  ∀ (s : State),
    (∀ w : Word, w &&& 0x00000003 = 0x00000002 →
        decodeControl w = .call (w &&& 0xFFFFFFFC) ∧ (w &&& 0xFFFFFFFC) ||| 2 = w)
    ∧ (∀ target : Word,
        (s.ch.subActive = true →
          exec (.call target) s
            = .next { s with events := s.events ++ [.ev5 s.cur (s.live.get - 4) (target ||| 2)] })
        ∧ (s.ch.subActive = false →
          exec (.call target) s
            = .next { modCh (fun x => { x with subReturn := s.live.get, subActive := true }) s with
                      live := { s.live with get := target } }))
    ∧ (s.ch.subActive = false →
          exec .ret s = .next { s with events := s.events ++ [.ev6 s.cur (s.live.get - 4)] })
    ∧ (s.ch.subActive = true →
          exec .ret s = .next { modCh (fun x => { x with subActive := false }) s with
                                live := { s.live with get := s.ch.subReturn } })

/-- A method header loads subchannel, method, run length and the no-increment flag of the current channel, and nothing
else (40_command_words.md R158). -/
def Obligations.HeaderLoadsTheParser : Prop :=
  ∀ (s : State),
    (∀ w : Word, w &&& 0xA0030003 = 0 →
        exec (decodeControl w) s
          = .next (modCh (fun x => { x with subc := w.extractLsb' 13 3, mthd := (w.extractLsb' 2 11).setWidth 32,
                                            remaining := w.extractLsb' 18 11, ni := w.getLsbD 30 }) s))
    ∧ ∀ (subc : SubId) (mthd : Mthd) (count : BitVec 11),
        exec (.hdr subc mthd count) s
          = .next (modCh (fun x => { x with subc := subc, mthd := mthd.setWidth 32, remaining := count,
                                            ni := false }) s)
        ∧ exec (.hdrNi subc mthd count) s
          = .next (modCh (fun x => { x with subc := subc, mthd := mthd.setWidth 32, remaining := count,
                                            ni := true }) s)

/-- A control word that matches none of the five patterns is logged and skipped (40_command_words.md R159,
30_encoding.md R127). -/
def Obligations.MalformedWordsAreLogged : Prop :=
  ∀ (s : State) (w : Word),
    let t : State := { s with events := s.events ++ [.ev1 s.cur (s.live.get - 4) w] }
    (w &&& 0xE0000003 ≠ 0x20000000 → w &&& 0x00000003 ≠ 1 → w &&& 0x00000003 ≠ 2 → w ≠ 0x00020000 →
        w &&& 0xA0030003 ≠ 0 → exec (decodeControl w) s = .next t)
    ∧ exec (.badLow11 w) s = .next t ∧ exec (.badB31 w) s = .next t ∧ exec (.badB3029 w) s = .next t
    ∧ exec (.badB16 w) s = .next t ∧ exec (.badB17 w) s = .next t

/-! ## Binding, channel-global methods, notification methods -/

/-- The channel-global methods other than BIND, by default those below 0x040: REF_CNT writes the reference count,
every other is logged as EV10, whatever engine the subchannel is bound to (41_method_dispatch.md R184, R185). A
parameter word is REF_CNT where its method number is the one configured for it, and channel-global up to the
configured last number (00_scope.md R6 `M_*`). That only REF_CNT has an effect is the spec's decision D29; that
REF_CNT comes before a route where its number is not channel-global, the model's choice, log entry 3. -/
def Obligations.GlobalMethods : Prop :=
  ∀ (s : State) (p : Word), s.failNext = .no →
    let n := s.cfg.mthds
    let undef (m : Word) : Host.Outcome State Fault Refusal :=
      .next (afterParam id { s with events := s.events ++ [.ev10 s.cur m p] })
    exec (.refCnt p) s = .next (afterParam id { s with live := { s.live with ref := p } })
    ∧ exec (.globalUndef001 p) s = undef 0x001 ∧ exec (.globalUndef015 p) s = undef 0x015
    ∧ (∀ m : Mthd, exec (.globalUndef002 m p) s = undef (m.setWidth 32)
        ∧ exec (.globalUndef004 m p) s = undef (m.setWidth 32) ∧ exec (.globalUndef008 m p) s = undef (m.setWidth 32)
        ∧ exec (.globalUndef010 m p) s = undef (m.setWidth 32) ∧ exec (.globalUndef016 m p) s = undef (m.setWidth 32)
        ∧ exec (.globalUndef018 m p) s = undef (m.setWidth 32) ∧ exec (.globalUndef020 m p) s = undef (m.setWidth 32))
    ∧ (∀ (r : Route) (m : Word), 1 ≤ m.toNat → m.toNat < 0x40 →
        (m = 0x014 → decodeParam r m p = .refCnt p) ∧ (m ≠ 0x014 → exec (decodeParam r m p) s = undef m))
    ∧ (s.ch.mthd ≠ 0 → s.ch.mthd = n.refCnt.setWidth 32 → exec (.data p) s = exec (.refCnt p) s)
    ∧ (s.ch.mthd ≠ 0 → s.ch.mthd ≠ n.refCnt.setWidth 32 → s.ch.mthd.toNat ≤ n.globalLast.toNat →
        exec (.data p) s = undef s.ch.mthd)
    ∧ (n = mthdsDefault → n.globalLast = 0x03F ∧ n.refCnt = 0x014)

/-- NOTIFY arms with its type, SET_NOTIFIER stores the resolved object, or the handle itself where the lookup fails;
neither runs the completion step, armed or not (41_method_dispatch.md R186 to R189). In a device with other numbers
each parameter is re-resolved exactly if its number lies in the handle range (00_scope.md R6, HandleMethodsResolve).
-/
def Obligations.NotifyAndSetNotifier : Prop :=
  ∀ (s : State) (p : Word), s.failNext = .no →
    let n := s.cfg.mthds
    let a : Word := n.notify.setWidth 32
    let b : Word := n.setNotifier.setWidth 32
    let arm (q : Word) (x : Channel) : Channel := { x with notifyArmed := true, notifyType := q }
    let link (q : Word) (x : Channel) : Channel := x.setSub x.subc { x.subAt x.subc with notifier := q }
    exec (.notify p) s = .next (afterParam (arm (paramValue s a p)) (resolved s a p))
    ∧ exec (.setNotifier p) s = .next (afterParam (link (paramValue s b p)) (resolved s b p))
    ∧ (n = mthdsDefault →
        exec (.notify p) s = .next (afterParam (arm p) s)
        ∧ exec (.setNotifier p) s
          = .next (afterParam (link (handleValue s p)) { s with events := s.events ++ handleEvents s p }))

/-- `LinkStore` puts the notifier's address, shifted right by 4, into its field of word 1 of the object, keeps the
other bits and every other byte, and `LinkLoad` gives it back; a word 1 outside device memory drops the store
(41_method_dispatch.md R183). -/
def Obligations.LinkWord : Prop :=
  ∀ (s : State) (obj n : Word), s.dev.wf = true →
    (inVram s.cfg (obj + 4) 4 = true →
      let t := linkStore obj n s
      let link : Word := n >>> 4
      let high : Word := link <<< 16
      let w := devRead s (obj + 4) 4
      t = { s with dev := t.dev }
      ∧ (s.cfg.layout = .pre →
          devRead t (obj + 4) 4 = (w &&& 0x0000FFFF) ||| high
          ∧ linkLoad obj t = ((n >>> 4) &&& 0xFFFF) <<< 4)
      ∧ (s.cfg.layout = .post →
          devRead t (obj + 4) 4 = (w &&& 0xFFF00000) ||| (link &&& 0x000FFFFF)
          ∧ linkLoad obj t = ((n >>> 4) &&& 0x000FFFFF) <<< 4)
      ∧ ∀ a, (a < (obj + 4).toNat ∨ (obj + 4).toNat + 4 ≤ a) → getByte t.dev a = getByte s.dev a)
    ∧ (inVram s.cfg (obj + 4) 4 = false → linkStore obj n s = s)

/-- BIND: the link store into the object being left, the lookup, the new binding where it succeeds, and the link after
it in the configured direction; a failed lookup is logged and leaves the binding (41_method_dispatch.md R182, R183).
Only word 1 of the two objects is stored to. -/
def Obligations.BindRebinds : Prop :=
  ∀ (s : State) (p : Word), s.failNext = .no → s.dev.wf = true →
    let old := s.sc
    let s1 := if old.engine = s.cfg.engGr then linkStore old.object old.notifier s else s
    let r := hashFind s1 p s.cur
    let obj := (r.map (·.1)).getD old.object
    let eng := (r.map (·.2)).getD old.engine
    let s2 := if eng = s.cfg.engGr ∧ s.cfg.postLink = .store then linkStore obj old.notifier s1 else s1
    let n := if eng = s.cfg.engGr ∧ s.cfg.postLink = .load then linkLoad obj s1 else old.notifier
    ∃ t, exec (.bind p) s = .next t
      ∧ t = afterParam (fun x => x.setSub x.subc { object := obj, engine := eng, notifier := n })
          { s with dev := s2.dev, events := if r.isSome then s.events else s.events ++ [.ev2 p s.cur] }
      ∧ t.sc = { object := obj, engine := eng, notifier := n }
      ∧ ∀ a, (old.engine = s.cfg.engGr → a < (old.object + 4).toNat ∨ (old.object + 4).toNat + 4 ≤ a) →
          (eng = s.cfg.engGr → s.cfg.postLink = .store → a < (obj + 4).toNat ∨ (obj + 4).toNat + 4 ≤ a) →
          getByte t.dev a = getByte s.dev a

/-! ## Routing by engine -/

/-- A method above the channel-global range on the software engine is queued as received and raises the FIFO-domain
interrupt at its configured bit, by default bit 0 (InterruptWordAndLine); the notification step does not run; the
number configured for REF_CNT is that method's on every engine (GlobalMethods) (41_method_dispatch.md R190,
60_exceptions.md R372, 10_state.md R34). -/
def Obligations.SoftwareMethodsAreQueued : Prop :=
  ∀ (s : State) (p : Word), s.failNext = .no → s.cfg.mthds.globalLast.toNat < s.ch.mthd.toNat →
    s.ch.mthd ≠ s.cfg.mthds.refCnt.setWidth 32 → s.sc.engine = engSw →
    let ctl' : Ctl := { s.ctl with fifoIntr := s.ctl.fifoIntr ||| (1 : Word) <<< s.cfg.bits.fifoDeferred.val }
    exec (.data p) s = .next (afterParam id { s with
      pendq := s.pendq ++ [{ chid := s.cur, subc := s.ch.subc, cls := devRead s s.sc.object 4 &&& s.cfg.classMask,
                             mthd := s.ch.mthd, param := p }],
      ctl := ctl', irqOut := s.irqOut ++ [irqLine s.cfg.bits ctl'] })

/-- A method above the channel-global range on an engine this block does not have is logged as EV9. On the graphics
engine, a class that is none of the nine is logged as EV3 and a method that the device has not among those of the
class as EV4, with the parameter already resolved (HandleMethodsResolve) and after the EV2 of a failed lookup; then
the notification step runs, armed or not (41_method_dispatch.md R186, R189, R191, R192, 60_exceptions.md R362, R418).
The numbers of REF_CNT, NOTIFY and SET_NOTIFIER and the two ranges are the configuration's (00_scope.md R6). -/
def Obligations.UnknownTargetsAreLogged : Prop :=
  ∀ (s : State) (p : Word), s.failNext = .no → s.cfg.mthds.globalLast.toNat < s.ch.mthd.toNat →
    s.ch.mthd ≠ s.cfg.mthds.refCnt.setWidth 32 →
    let m := s.ch.mthd
    let cls := devRead s s.sc.object 4 &&& s.cfg.classMask
    let q := paramValue s m p
    let es := paramEvents s m p
    (s.sc.engine ≠ engSw → s.sc.engine ≠ s.cfg.engGr →
        exec (.data p) s = .next (afterParam id { s with
          events := s.events ++ [.ev9 s.cur s.ch.subc s.sc.engine m p] }))
    ∧ (s.sc.engine ≠ engSw → s.sc.engine = s.cfg.engGr →
        m ≠ s.cfg.mthds.notify.setWidth 32 → m ≠ s.cfg.mthds.setNotifier.setWidth 32 →
        (clsOf s.cfg cls = none →
          exec (.data p) s = .next (afterParam id (notifyComplete { s with
            events := s.events ++ es ++ [.ev3 s.cur s.ch.subc cls m q] })))
        ∧ ∀ c, clsOf s.cfg cls = some c →
          (m.toNat < 0x800 → ∀ e ∈ s.cfg.mthds.ofClass c, ∀ k, k < e.count → m.toNat ≠ e.base.toNat + e.step * k) →
          exec (.data p) s = .next (afterParam id (notifyComplete { s with
            events := s.events ++ es ++ [.ev4 s.cur s.ch.subc cls m q] })))
    ∧ (s.ch.notifyArmed = false → notifyComplete s = s)
    ∧ (es = if s.cfg.mthds.handleFirst.toNat ≤ m.toNat ∧ m.toNat ≤ s.cfg.mthds.handleLast.toNat
            ∧ hashFind s p s.cur = none then [.ev2 p s.cur] else [])

/-- With the oracle's answer `before`, a parameter word of any row is logged as EV8, the cursor goes back to it and
the drain is left; nothing else changes (40_command_words.md R160, R161, 41_method_dispatch.md R195). -/
def Obligations.DispatchFailsBefore : Prop :=
  ∀ (i : Instr) (s : State), i.isParameter = true → s.failNext = .before →
    exec i s = .next { s with
      failIn := s.failIn.tail,
      events := s.events ++ [.ev8 s.cur (s.live.get - 4) (encodeWord i)],
      live := { s.live with get := s.live.get - 4 },
      tasks := match s.tasks with
               | .drain :: ts => ts
               | ts => ts }

/-- With the answer `after` all the effects of the dispatch stay; the parser's bookkeeping is replaced by EV8, the
rewind and the end of the drain (40_command_words.md R161, 41_method_dispatch.md R195, 70_reset_and_hazards.md R413).
-/
def Obligations.DispatchFailsAfter : Prop :=
  ∀ (i : Instr) (s : State) (r : List FailMode), i.isParameter = true →
    ∃ e : State, exec i { s with failIn := .no :: r } = .next (advanceParam e)
      ∧ exec i { s with failIn := .after :: r } = .next (failed (encodeWord i) e)

/-- An armed notification adds exactly the notification step to a class method: what the method does is what it does
unarmed, and then the record is written and the arm flag cleared (41_method_dispatch.md R189, R192). A word of an
unknown class or method: UnknownTargetsAreLogged. -/
def Obligations.ArmedClassMethod : Prop :=
  ∀ (i : Instr) (s : State), i.isClassMethod = true → s.failNext = .no → s.ch.notifyArmed = true →
    ∃ t, exec i (modCh (fun x => { x with notifyArmed := false }) s) = .next t
      ∧ exec i s = .next (notifyComplete (modCh (fun x => { x with notifyArmed := true }) t))

/-- The notification step of an armed channel whose notifier is a linear object on device memory: 16 bytes at the
notifier's offset 0, the clock in the first eight and zero in the others, the arm flag cleared, the graphics-domain
interrupt raised iff the type is not 0, and no other byte or register changed; the clock does not go back
(41_method_dispatch.md R192 to R194, 60_exceptions.md R373). Unarmed, nothing happens. A notifier in system memory
gets the same four words as write requests at the addresses that the translation gives. Through any other notifier
(paged, over the end of device memory) the four words are stored where the translation puts them, if the record does
not cover the words it is translated through. The two interrupt bits are the configuration's, by default bit 0 of each
register (00_scope.md R6, 10_state.md R34, R36, InterruptWordAndLine). -/
def Obligations.CompletionRecord : Prop :=
  ∀ (s : State),
    let n := s.sc.notifier
    let t := notifyComplete s
    let b := viewBase s n
    (s.ch.notifyArmed = false → t = s)
    ∧ (s.ch.notifyArmed = true →
      s.clockLast ≤ t.clockLast
      ∧ (s.dev.wf = true → LinearDev s n → b.toNat + 16 ≤ s.cfg.vramSize → (n.toNat + 12 ≤ b.toNat ∨ b.toNat + 16 ≤ n.toNat) →
          devRead t b 4 = t.clockLast.setWidth 32 ∧ devRead t (b + 4) 4 = (t.clockLast >>> 32).setWidth 32
          ∧ devRead t (b + 8) 4 = 0 ∧ devRead t (b + 12) 4 = 0
          ∧ (∀ a, (a < b.toNat ∨ b.toNat + 16 ≤ a) → getByte t.dev a = getByte s.dev a)
          ∧ t.sysBus = s.sysBus)
      ∧ (s.dev.wf = true → Steady s [⟨n, 0, 4⟩, ⟨n, 4, 4⟩, ⟨n, 8, 4⟩, ⟨n, 12, 4⟩] →
          Stored s t [(⟨n, 0, 4⟩, t.clockLast.setWidth 32), (⟨n, 4, 4⟩, (t.clockLast >>> 32).setWidth 32),
            (⟨n, 8, 4⟩, 0), (⟨n, 12, 4⟩, 0)])
      ∧ ((dmaXlate s n 0).1 = .sys → t.dev = s.dev
          ∧ t.sysBus = s.sysBus ++ [.write (dmaXlate s n 0).2 4 (t.clockLast.setWidth 32),
              .write (dmaXlate s n 4).2 4 ((t.clockLast >>> 32).setWidth 32), .write (dmaXlate s n 8).2 4 0,
              .write (dmaXlate s n 12).2 4 0])
      ∧ t = { modCh (fun x => { x with notifyArmed := false }) s with
              dev := t.dev, sysBus := t.sysBus, clockReads := s.clockReads + 1, clockLast := t.clockLast,
              ctl := if s.ch.notifyType = 0 then s.ctl
                     else { s.ctl with grIntr := s.ctl.grIntr ||| (1 : Word) <<< s.cfg.bits.grNotify.val,
                                       grNsource := s.ctl.grNsource ||| (1 : Word) <<< s.cfg.bits.nsourceNotify.val },
              irqOut := if s.ch.notifyType = 0 then s.irqOut else s.irqOut ++ [irqLine s.cfg.bits t.ctl] })

/-! ## Methods that store their parameter -/

/-- The methods of the clip rectangle and ROP classes, and the 2D surface methods that take no handle, store their
parameter and nothing else (42_state_classes.md R211, R212, R215, R226 to R229). In a device that gives one of them a
number of the handle range (00_scope.md R6) the parameter is the re-resolved one (41_method_dispatch.md R186,
HandleMethodsResolve). -/
def Obligations.ClipRopAndSurfaceStore : Prop :=
  ∀ (p : Word) (s : State), Ready s →
    let n := s.cfg.mthds
    let stores (i : Instr) (m : Word) (f : Word → Channel → Channel) : Prop :=
      exec i s = .next (afterParam (f (paramValue s m p)) (resolved s m p))
      ∧ (n = mthdsDefault → exec i s = .next (afterParam (f p) s))
    (decodeParam (.graphics (some .clip)) 0x0C0 p = .clipPoint p
      ∧ stores (.clipPoint p) (n.clipPoint.setWidth 32) (fun q x => { x with clip := { x.clip with point := q } }))
    ∧ (decodeParam (.graphics (some .clip)) 0x0C1 p = .clipSize p
      ∧ stores (.clipSize p) (n.clipSize.setWidth 32) (fun q x => { x with clip := { x.clip with size := q } }))
    ∧ (decodeParam (.graphics (some .rop)) 0x0C0 p = .rop p
      ∧ stores (.rop p) (n.rop.setWidth 32) (fun q x => { x with rop := q }))
    ∧ (decodeParam (.graphics (some .surf2d)) 0x0C0 p = .surfFormat p
      ∧ stores (.surfFormat p) 0x0C0 (fun q x => { x with surf := { x.surf with format := q } }))
    ∧ (decodeParam (.graphics (some .surf2d)) 0x0C1 p = .surfPitch p
      ∧ stores (.surfPitch p) (n.surfPitch.setWidth 32) (fun q x => { x with surf := { x.surf with pitch := q } }))
    ∧ (decodeParam (.graphics (some .surf2d)) 0x0C2 p = .surfOfsSrc p
      ∧ stores (.surfOfsSrc p) (n.surfOfsSrc.setWidth 32) (fun q x => { x with surf := { x.surf with ofsSrc := q } }))
    ∧ (decodeParam (.graphics (some .surf2d)) 0x0C3 p = .surfOfsDst p
      ∧ stores (.surfOfsDst p) (n.surfOfsDst.setWidth 32) (fun q x => { x with surf := { x.surf with ofsDst := q } }))

/-- The methods of the pattern class store their parameter and nothing else (42_state_classes.md R217 to R221); the
re-resolved one in a device that gives the method a number of the handle range (00_scope.md R6, 41_method_dispatch.md
R186). -/
def Obligations.PatternStores : Prop :=
  ∀ (p : Word) (s : State), Ready s →
    let n := s.cfg.mthds
    let stores (i : Instr) (m : Word) (f : Word → Channel → Channel) : Prop :=
      exec i s = .next (afterParam (f (paramValue s m p)) (resolved s m p))
      ∧ (n = mthdsDefault → exec i s = .next (afterParam (f p) s))
    (decodeParam (.graphics (some .patt)) 0x0C4 p = .pattColor0 p
      ∧ stores (.pattColor0 p) (n.pattColor0.setWidth 32) (fun q x => { x with patt := { x.patt with color0 := q } }))
    ∧ (decodeParam (.graphics (some .patt)) 0x0C5 p = .pattColor1 p
      ∧ stores (.pattColor1 p) (n.pattColor1.setWidth 32) (fun q x => { x with patt := { x.patt with color1 := q } }))
    ∧ (decodeParam (.graphics (some .patt)) 0x0C6 p = .pattMono0 p
      ∧ stores (.pattMono0 p) (n.pattMono0.setWidth 32) (fun q x => { x with patt := { x.patt with mono := x.patt.mono.set 0 q } }))
    ∧ (decodeParam (.graphics (some .patt)) 0x0C7 p = .pattMono1 p
      ∧ stores (.pattMono1 p) (n.pattMono1.setWidth 32) (fun q x => { x with patt := { x.patt with mono := x.patt.mono.set 1 q } }))
    ∧ ∀ i : BitVec 4, decodeParam (.graphics (some .patt)) (0x100 + i.setWidth 32) p = .pattIdx i p
      ∧ stores (.pattIdx i p) (n.pattIdx.setWidth 32 + i.setWidth 32)
          (fun q x => { x with patt := { x.patt with idx := x.patt.idx.set i.toNat q i.isLt } })

/-- The GDI methods that trigger nothing, and the points of the image-upload and block-copy classes, store their
parameter and nothing else; the index of a rectangle selects no state (43_raster_classes.md R252, R253, R255 to R258,
R262, R272, R273). In a device that gives one of them a number of the handle range the parameter is the re-resolved
one (00_scope.md R6, 41_method_dispatch.md R186). -/
def Obligations.GdiUploadAndBlitStore : Prop :=
  ∀ (p : Word) (s : State), Ready s →
    let n := s.cfg.mthds
    let stores (i : Instr) (m : Word) (f : Word → Channel → Channel) : Prop :=
      exec i s = .next (afterParam (f (paramValue s m p)) (resolved s m p))
      ∧ (n = mthdsDefault → exec i s = .next (afterParam (f p) s))
    (decodeParam (.graphics (some .gdi)) 0x0FF p = .gdiColorA p
      ∧ stores (.gdiColorA p) (n.gdiColorA.setWidth 32) (fun q x => { x with gdi := { x.gdi with color := q } }))
    ∧ (decodeParam (.graphics (some .gdi)) 0x17D p = .gdiClipPoint0 p
      ∧ stores (.gdiClipPoint0 p) (n.gdiClipPoint0.setWidth 32) (fun q x => { x with gdi := { x.gdi with clip0 := q } }))
    ∧ (decodeParam (.graphics (some .gdi)) 0x17E p = .gdiClipPoint1 p
      ∧ stores (.gdiClipPoint1 p) (n.gdiClipPoint1.setWidth 32) (fun q x => { x with gdi := { x.gdi with clip1 := q } }))
    ∧ (decodeParam (.graphics (some .gdi)) 0x17F p = .gdiColorB p
      ∧ stores (.gdiColorB p) (n.gdiColorB.setWidth 32) (fun q x => { x with gdi := { x.gdi with color := q } }))
    ∧ (decodeParam (.graphics (some .ifc)) 0x0C1 p = .ifcPoint p
      ∧ stores (.ifcPoint p) (n.ifcPoint.setWidth 32) (fun q x => { x with ifc := { x.ifc with point := q } }))
    ∧ (decodeParam (.graphics (some .blit)) 0x0C0 p = .blitPointIn p
      ∧ stores (.blitPointIn p) (n.blitPointIn.setWidth 32) (fun q x => { x with blit := { x.blit with pointIn := q } }))
    ∧ (decodeParam (.graphics (some .blit)) 0x0C1 p = .blitPointOut p
      ∧ stores (.blitPointOut p) (n.blitPointOut.setWidth 32) (fun q x => { x with blit := { x.blit with pointOut := q } }))
    ∧ ∀ i : BitVec 5,
      decodeParam (.graphics (some .gdi)) (0x100 + 2 * i.setWidth 32) p = .gdiUnclippedPoint i p
      ∧ stores (.gdiUnclippedPoint i p) (n.gdiUnclippedPoint.setWidth 32 + 2 * i.setWidth 32)
          (fun q x => { x with gdi := { x.gdi with point := q } })
      ∧ decodeParam (.graphics (some .gdi)) (0x180 + 2 * i.setWidth 32) p = .gdiClippedPoint0 i p
      ∧ stores (.gdiClippedPoint0 i p) (n.gdiClippedPoint0.setWidth 32 + 2 * i.setWidth 32)
          (fun q x => { x with gdi := { x.gdi with rect0 := q } })

/-- The memory-to-memory and 3D methods that take no handle and trigger nothing store their parameter and nothing else
(43_raster_classes.md R279 to R285, R291 to R296, R298, R299); the re-resolved one in a device that gives the method a
number of the handle range (00_scope.md R6, 41_method_dispatch.md R186). -/
def Obligations.CopyAndClearStore : Prop :=
  ∀ (p : Word) (s : State), Ready s →
    let n := s.cfg.mthds
    let stores (i : Instr) (m : Word) (f : Word → Channel → Channel) : Prop :=
      exec i s = .next (afterParam (f (paramValue s m p)) (resolved s m p))
      ∧ (n = mthdsDefault → exec i s = .next (afterParam (f p) s))
    (decodeParam (.graphics (some .m2mf)) 0x0C3 p = .m2mfOfsIn p
      ∧ stores (.m2mfOfsIn p) (n.m2mfOfsIn.setWidth 32) (fun q x => { x with m2mf := { x.m2mf with ofsIn := q } }))
    ∧ (decodeParam (.graphics (some .m2mf)) 0x0C4 p = .m2mfOfsOut p
      ∧ stores (.m2mfOfsOut p) (n.m2mfOfsOut.setWidth 32) (fun q x => { x with m2mf := { x.m2mf with ofsOut := q } }))
    ∧ (decodeParam (.graphics (some .m2mf)) 0x0C5 p = .m2mfPitchIn p
      ∧ stores (.m2mfPitchIn p) (n.m2mfPitchIn.setWidth 32) (fun q x => { x with m2mf := { x.m2mf with pitchIn := q } }))
    ∧ (decodeParam (.graphics (some .m2mf)) 0x0C6 p = .m2mfPitchOut p
      ∧ stores (.m2mfPitchOut p) (n.m2mfPitchOut.setWidth 32) (fun q x => { x with m2mf := { x.m2mf with pitchOut := q } }))
    ∧ (decodeParam (.graphics (some .m2mf)) 0x0C7 p = .m2mfLineLen p
      ∧ stores (.m2mfLineLen p) (n.m2mfLineLen.setWidth 32) (fun q x => { x with m2mf := { x.m2mf with lineLen := q } }))
    ∧ (decodeParam (.graphics (some .m2mf)) 0x0C8 p = .m2mfLineCount p
      ∧ stores (.m2mfLineCount p) (n.m2mfLineCount.setWidth 32) (fun q x => { x with m2mf := { x.m2mf with lineCount := q } }))
    ∧ (decodeParam (.graphics (some .m2mf)) 0x0C9 p = .m2mfFormat p
      ∧ stores (.m2mfFormat p) (n.m2mfFormat.setWidth 32) (fun q x => { x with m2mf := { x.m2mf with format := q } }))
    ∧ (decodeParam (.graphics (some .d3d)) 0x082 p = .d3dSurfaceFormat p
      ∧ stores (.d3dSurfaceFormat p) (n.d3dSurfaceFormat.setWidth 32) (fun q x => { x with d3d := { x.d3d with format := q } }))
    ∧ (decodeParam (.graphics (some .d3d)) 0x083 p = .d3dSurfacePitch p
      ∧ stores (.d3dSurfacePitch p) (n.d3dSurfacePitch.setWidth 32) (fun q x => { x with d3d := { x.d3d with pitch := q } }))
    ∧ (decodeParam (.graphics (some .d3d)) 0x084 p = .d3dColorOffset p
      ∧ stores (.d3dColorOffset p) (n.d3dColorOffset.setWidth 32) (fun q x => { x with d3d := { x.d3d with colorOfs := q } }))
    ∧ (decodeParam (.graphics (some .d3d)) 0x085 p = .d3dZetaOffset p
      ∧ stores (.d3dZetaOffset p) (n.d3dZetaOffset.setWidth 32) (fun q x => { x with d3d := { x.d3d with zetaOfs := q } }))
    ∧ (decodeParam (.graphics (some .d3d)) 0x763 p = .d3dZclearValue p
      ∧ stores (.d3dZclearValue p) (n.d3dZclearValue.setWidth 32) (fun q x => { x with d3d := { x.d3d with zclear := q } }))
    ∧ (decodeParam (.graphics (some .d3d)) 0x764 p = .d3dCclearValue p
      ∧ stores (.d3dCclearValue p) (n.d3dCclearValue.setWidth 32) (fun q x => { x with d3d := { x.d3d with cclear := q } }))
    ∧ (decodeParam (.graphics (some .d3d)) 0x766 p = .d3dClearRectH p
      ∧ stores (.d3dClearRectH p) (n.d3dClearRectH.setWidth 32) (fun q x => { x with d3d := { x.d3d with rectH := q } }))
    ∧ (decodeParam (.graphics (some .d3d)) 0x767 p = .d3dClearRectV p
      ∧ stores (.d3dClearRectV p) (n.d3dClearRectV.setWidth 32) (fun q x => { x with d3d := { x.d3d with rectV := q } }))

/-- The methods that take a handle store the object address it resolves to, or the handle itself with an EV2 where it
does not resolve (41_method_dispatch.md R186, 42_state_classes.md R224, R225, 43_raster_classes.md R277, R278, R289,
R290). What is re-resolved is a parameter whose method number, the device's, lies in the configured handle range
(00_scope.md R6 `M_*`); by default `0x060` to `0x07F`, where the six methods are, and every method that is no handle's
is not. -/
def Obligations.HandleMethodsResolve : Prop :=
  ∀ (p : Word) (s : State), Ready s →
    let n := s.cfg.mthds
    let stores (i : Instr) (m : Word) (f : Word → Channel → Channel) : Prop :=
      exec i s = .next (afterParam (f (paramValue s m p)) (resolved s m p))
      ∧ (n = mthdsDefault →
          exec i s = .next (afterParam (f (handleValue s p)) { s with events := s.events ++ handleEvents s p }))
    (decodeParam (.graphics (some .surf2d)) 0x061 p = .surfDmaSrc p
      ∧ stores (.surfDmaSrc p) (n.surfDmaSrc.setWidth 32) (fun q x => { x with surf := { x.surf with srcObj := q } }))
    ∧ (decodeParam (.graphics (some .surf2d)) 0x062 p = .surfDmaDst p
      ∧ stores (.surfDmaDst p) (n.surfDmaDst.setWidth 32) (fun q x => { x with surf := { x.surf with dstObj := q } }))
    ∧ (decodeParam (.graphics (some .m2mf)) 0x061 p = .m2mfDmaIn p
      ∧ stores (.m2mfDmaIn p) (n.m2mfDmaIn.setWidth 32) (fun q x => { x with m2mf := { x.m2mf with srcObj := q } }))
    ∧ (decodeParam (.graphics (some .m2mf)) 0x062 p = .m2mfDmaOut p
      ∧ stores (.m2mfDmaOut p) (n.m2mfDmaOut.setWidth 32) (fun q x => { x with m2mf := { x.m2mf with dstObj := q } }))
    ∧ (decodeParam (.graphics (some .d3d)) 0x065 p = .d3dDmaColor p
      ∧ stores (.d3dDmaColor p) (n.d3dDmaColor.setWidth 32) (fun q x => { x with d3d := { x.d3d with colorObj := q } }))
    ∧ (decodeParam (.graphics (some .d3d)) 0x066 p = .d3dDmaZeta p
      ∧ stores (.d3dDmaZeta p) (n.d3dDmaZeta.setWidth 32) (fun q x => { x with d3d := { x.d3d with zetaObj := q } }))
    ∧ ∀ m : Word,
      (n.handleFirst.toNat ≤ m.toNat → m.toNat ≤ n.handleLast.toNat →
        (∀ r, hashFind s p s.cur = some r → paramValue s m p = r.1 ∧ resolved s m p = s)
        ∧ (hashFind s p s.cur = none →
            paramValue s m p = p ∧ resolved s m p = { s with events := s.events ++ [.ev2 p s.cur] }))
      ∧ (m.toNat < n.handleFirst.toNat ∨ n.handleLast.toNat < m.toNat → paramValue s m p = p ∧ resolved s m p = s)
      ∧ (n = mthdsDefault → n.handleFirst = 0x060 ∧ n.handleLast = 0x07F)

/-! ## Executors -/

/-- Both fills, on a destination that is a linear view of device memory and a rectangle whose pixels do not share
bytes: the pixels of the rectangle (clipped: those inside the clip rectangle) hold the colour in the pixel size of the
format, one format with its top byte 0; no other byte changes; the whole rectangle is reported; nothing else changes
(43_raster_classes.md R254, R259 to R261, 42_state_classes.md R230, R231). Packings, pixel sizes, the masked format
and the method numbers are the configuration's (00_scope.md R6); the defaults, which are the tables of R130 and R230,
stand here in full; code 4 is 2 bytes in every device. With the default numbers no parameter of a fill is a handle
(HandleMethodsResolve). The model's choice, log entry 24: the first entry of a format code counts. Any other
destination: ExecutorsStoreThroughAnyObject. -/
def Obligations.FillsPaintTheirRectangle : Prop :=
  (∀ (t : List (Word × ElemSize)) (f : Word),
    (∀ us e vs, t = us ++ e :: vs → e.1 = f → (∀ d ∈ us, d.1 ≠ f) →
        bytesIn t f = match e.2 with | .one => 1 | .two => 2 | .four => 4)
    ∧ ((∀ e ∈ t, e.1 ≠ f) → bytesIn t f = 0))
  ∧ (∀ s : State, let f := s.ch.surf.format
      (f = 4 → s.bppNow = 2) ∧ (f ≠ 4 → s.bppNow = bytesIn s.cfg.bpp f)
      ∧ (s.cfg.bpp = bppDefault → s.bppNow =
          if f = 1 then 1 else if 2 ≤ f.toNat ∧ f.toNat ≤ 5 then 2 else if 6 ≤ f.toNat ∧ f.toNat ≤ 11 then 4 else 0))
  ∧ (∀ v : Word, Packing.xy.fst v = lo16 v ∧ Packing.xy.snd v = hi16 v
      ∧ Packing.yx.fst v = hi16 v ∧ Packing.yx.snd v = lo16 v)
  ∧ (∀ l : Layout, (Config.ofLayout l).bpp = bppDefault ∧ (Config.ofLayout l).maskedFormat = 6
      ∧ (Config.ofLayout l).packings = {
          surfPitch := .xy, gdiUnclippedPoint := .yx, gdiUnclippedSize := .yx, gdiClipPoint0 := .xy,
          gdiClipPoint1 := .xy, gdiClippedPoint0 := .xy, gdiClippedPoint1 := .xy, ifcPoint := .xy, ifcSizeOut := .xy,
          ifcSizeIn := .xy, blitPointIn := .xy, blitPointOut := .xy, blitSize := .xy, d3dSurfacePitch := .xy,
          d3dClearRectH := .xy, d3dClearRectV := .xy })
  ∧ ∀ (i : BitVec 5) (p : Word) (s : State), Ready s → s.dev.wf = true → s.bppNow ≠ 0 →
    let g := s.ch.gdi
    let k := s.cfg.packings
    let color := if s.ch.surf.format = s.cfg.maskedFormat then g.color &&& 0x00FFFFFF else g.color
    (let m := gdiNumber s.cfg.mthds.gdiUnclippedSize i
     let q := paramValue s m p
     let x0 := k.gdiUnclippedPoint.fst g.point
     let y0 := k.gdiUnclippedPoint.snd g.point
     let w := k.gdiUnclippedSize.fst q
     let h := k.gdiUnclippedSize.snd q
     DstOk s x0 y0 w h →
      ∃ t, exec (.gdiUnclippedSize i p) s = .next t
        ∧ DstPainted s t x0 y0 w h (fun _ _ => true) (fun _ _ k => byteOf color.toNat k)
        ∧ t = afterParam id { resolved s m p with dev := t.dev, dirty := s.dirty ++ [.rect x0 y0 w h] })
    ∧ (let m := gdiNumber s.cfg.mthds.gdiClippedPoint1 i
       let q := paramValue s m p
       let x0 := k.gdiClippedPoint0.fst g.rect0
       let y0 := k.gdiClippedPoint0.snd g.rect0
       let w := k.gdiClippedPoint1.fst q - x0
       let h := k.gdiClippedPoint1.snd q - y0
       DstOk s x0 y0 w h →
       ∃ t, exec (.gdiClippedPoint1 i p) s = .next t
        ∧ DstPainted s t x0 y0 w h
            (fun i j => decide (k.gdiClipPoint0.fst g.clip0 ≤ x0 + i ∧ x0 + i < k.gdiClipPoint1.fst g.clip1
              ∧ k.gdiClipPoint0.snd g.clip0 ≤ y0 + j ∧ y0 + j < k.gdiClipPoint1.snd g.clip1))
            (fun _ _ k => byteOf color.toNat k)
        ∧ t = afterParam id { resolved s m p with dev := t.dev, dirty := s.dirty ++ [.rect x0 y0 w h] })

/-- The word that fills the upload buffer draws the image: destination pixel (i, j) takes source pixel j * sw + i of
the packed little-endian buffer (bytes beyond it are 0), the rectangle is reported, the buffer released; no other byte
changes (43_raster_classes.md R265, R267, R270). The packings (by default XY, FillsPaintTheirRectangle) and the
method's number, under which the parameter is re-resolved if it is a handle's (HandleMethodsResolve), are the
configuration's (00_scope.md R6). -/
def Obligations.LastDataWordDrawsTheImage : Prop :=
  ∀ (m : Mthd) (p : Word) (s : State), Ready s → s.dev.wf = true → s.bppNow ≠ 0 →
    let y := s.ch.ifc
    let k := s.cfg.packings
    let d : Word := s.cfg.mthds.ifcData.setWidth 32 + (m.setWidth 32 - 0x100)
    let q := paramValue s d p
    let x0 := k.ifcPoint.fst y.point
    let y0 := k.ifcPoint.snd y.point
    let w := k.ifcSizeOut.fst y.sizeOut
    let h := k.ifcSizeOut.snd y.sizeOut
    y.state = .streaming → y.buf.length + 1 = y.need → DstOk s x0 y0 w h →
    ∀ i ∈ [Instr.ifcData100 m p, .ifcData200 m p, .ifcData400 m p], i.wf = true →
      ∃ t, exec i s = .next t
        ∧ DstPainted s t x0 y0 w h (fun _ _ => true)
            (fun i j b =>
              let n := (j * k.ifcSizeIn.fst y.sizeIn + i) * s.bppNow + b
              byteOf ((y.buf ++ [q]).getD (n / 4) 0).toNat (n % 4))
        ∧ t = afterParam (fun x => { x with ifc := { x.ifc with buf := [], need := 0, state := .configuring } })
            { resolved s d p with dev := t.dev, dirty := s.dirty ++ [.rect x0 y0 w h] }

/-- IFC_SIZE_OUT releases the buffer and enters the fast path or Configuring; IFC_SIZE_IN makes a new buffer of
ceil(sw * sh * B / 4) words outside the fast path (43_raster_classes.md R263, R264, R266, R269, R270). Packings and
method numbers are the configuration's (00_scope.md R6; the defaults: FillsPaintTheirRectangle; re-resolution:
HandleMethodsResolve). -/
def Obligations.UploadSizes : Prop :=
  ∀ (p : Word) (s : State), Ready s →
    let k := s.cfg.packings
    let a : Word := s.cfg.mthds.ifcSizeOut.setWidth 32
    let b : Word := s.cfg.mthds.ifcSizeIn.setWidth 32
    let v := paramValue s a p
    let w := paramValue s b p
    exec (.ifcSizeOut p) s = .next (afterParam (fun x => { x with ifc :=
        (if s.cfg.ifcFastpathSize = some v then
          { x.ifc with sizeOut := v, buf := [], need := 0, state := .fastPath,
                       fastOff := dstOff s (k.ifcPoint.fst x.ifc.point) (k.ifcPoint.snd x.ifc.point) }
        else { x.ifc with sizeOut := v, buf := [], need := 0, state := .configuring }) }) (resolved s a p))
    ∧ (s.ch.ifc.state = .fastPath →
        exec (.ifcSizeIn p) s
          = .next (afterParam (fun x => { x with ifc := { x.ifc with sizeIn := w } }) (resolved s b p)))
    ∧ (s.ch.ifc.state ≠ .fastPath →
        let n := (k.ifcSizeIn.fst w * k.ifcSizeIn.snd w * s.bppNow + 3) / 4
        exec (.ifcSizeIn p) s = .next (afterParam (fun x => { x with ifc :=
          { x.ifc with sizeIn := w, buf := [], need := n, state := if n = 0 then .configuring else .streaming } })
            (resolved s b p)))

/-- An image data word that does not complete the buffer: with no buffer it is logged as EV11 with the device's method
number (00_scope.md R6, log entry 3), while streaming it is appended, in the fast path it is stored as four bytes
through the destination object at the running offset, which advances by 4; no other byte changes (43_raster_classes.md
R265, R268). Where the device's number is a handle's the word is re-resolved first (HandleMethodsResolve). -/
def Obligations.DataWordsOfAnUpload : Prop :=
  ∀ (m : Mthd) (p : Word) (s : State), Ready s →
    ∀ i ∈ [Instr.ifcData100 m p, .ifcData200 m p, .ifcData400 m p], i.wf = true →
    let y := s.ch.ifc
    let d : Word := s.cfg.mthds.ifcData.setWidth 32 + (m.setWidth 32 - 0x100)
    let q := paramValue s d p
    let r := resolved s d p
    (y.state = .configuring → exec i s = .next (afterParam id { r with events := r.events ++ [.ev11 s.cur d q] }))
    ∧ (y.state = .streaming → y.buf.length + 1 ≠ y.need →
        exec i s = .next (afterParam (fun x => { x with ifc := { x.ifc with buf := x.ifc.buf ++ [q] } }) r))
    ∧ (y.state = .fastPath →
        let a := dmaXlate s s.ch.surf.dstObj y.fastOff
        ∃ t, exec i s = .next t
          ∧ t = afterParam (fun x => { x with ifc := { x.ifc with fastOff := x.ifc.fastOff + 4 } })
              { r with dev := t.dev, sysBus := t.sysBus }
          ∧ (s.dev.wf = true → a.1 = .dev → inVram s.cfg a.2 4 = true → t.sysBus = s.sysBus
              ∧ (∀ k, k < 4 → getByte t.dev (a.2.toNat + k) = byteOf q.toNat k)
              ∧ ∀ b, (b < a.2.toNat ∨ a.2.toNat + 4 ≤ b) → getByte t.dev b = getByte s.dev b)
          ∧ (a.1 = .dev → inVram s.cfg a.2 4 = false → t.sysBus = s.sysBus ∧ t.dev = s.dev)
          ∧ (a.1 = .sys → t.dev = s.dev ∧ t.sysBus = s.sysBus ++ [.write a.2 4 q]))

/-- A block copy inside one surface, a linear view of device memory whose pixels do not share bytes over the touched
area: every destination pixel takes the value its source pixel had before the copy, whatever the overlap; no other
byte changes; the destination rectangle is reported (43_raster_classes.md R274 to R276). Packings and the method's
number are the configuration's (00_scope.md R6; the defaults: FillsPaintTheirRectangle; re-resolution:
HandleMethodsResolve). -/
def Obligations.BlitIsOverlapSafe : Prop :=
  ∀ (p : Word) (s : State), Ready s → s.dev.wf = true → s.bppNow ≠ 0 →
    let f := s.ch.surf
    let k := s.cfg.packings
    let m : Word := s.cfg.mthds.blitSize.setWidth 32
    let q := paramValue s m p
    let sx := k.blitPointIn.fst s.ch.blit.pointIn
    let sy := k.blitPointIn.snd s.ch.blit.pointIn
    let dx := k.blitPointOut.fst s.ch.blit.pointOut
    let dy := k.blitPointOut.snd s.ch.blit.pointOut
    let w := k.blitSize.fst q
    let h := k.blitSize.snd q
    f.srcObj = f.dstObj → f.ofsSrc = f.ofsDst → s.srcPitch = s.dstPitch →
    DstOk s (min sx dx) (min sy dy) (max sx dx + w - min sx dx) (max sy dy + h - min sy dy) →
    ∃ t, exec (.blitSize p) s = .next t
      ∧ DstPainted s t dx dy w h (fun _ _ => true)
          (fun i j k => getByte s.dev (elemAddr s f.srcObj f.ofsSrc s.srcPitch s.bppNow (sx + i) (sy + j) + k))
      ∧ t = afterParam id { resolved s m p with dev := t.dev, dirty := s.dirty ++ [.rect dx dy w h] }

/-- A block copy between two linear views of device memory where the bytes of the destination rectangle are none of
the source rectangle's and none of the source descriptor's: every destination pixel takes its source pixel; no other
byte changes (43_raster_classes.md R274, R275; packings and method number as in BlitIsOverlapSafe). -/
def Obligations.BlitCopiesBetweenViews : Prop :=
  ∀ (p : Word) (s : State), Ready s → s.dev.wf = true → s.bppNow ≠ 0 →
    let f := s.ch.surf
    let b := s.bppNow
    let k := s.cfg.packings
    let m : Word := s.cfg.mthds.blitSize.setWidth 32
    let q := paramValue s m p
    let sx := k.blitPointIn.fst s.ch.blit.pointIn
    let sy := k.blitPointIn.snd s.ch.blit.pointIn
    let dx := k.blitPointOut.fst s.ch.blit.pointOut
    let dy := k.blitPointOut.snd s.ch.blit.pointOut
    let w := k.blitSize.fst q
    let h := k.blitSize.snd q
    let lo := elemAddr s f.dstObj f.ofsDst s.dstPitch b dx dy
    let hi := elemAddr s f.dstObj f.ofsDst s.dstPitch b (dx + w) (dy + h)
    DstOk s dx dy w h → LinearDev s f.srcObj →
    elemAddr s f.srcObj f.ofsSrc s.srcPitch b (sx + w) (sy + h) ≤ s.cfg.vramSize →
    (hi ≤ elemAddr s f.srcObj f.ofsSrc s.srcPitch b sx sy
      ∨ elemAddr s f.srcObj f.ofsSrc s.srcPitch b (sx + w) (sy + h) ≤ lo) →
    (f.srcObj.toNat + 12 ≤ lo ∨ hi ≤ f.srcObj.toNat) →
    ∃ t, exec (.blitSize p) s = .next t
      ∧ DstPainted s t dx dy w h (fun _ _ => true)
          (fun i j k => getByte s.dev (elemAddr s f.srcObj f.ofsSrc s.srcPitch b (sx + i) (sy + j) + k))
      ∧ t = afterParam id { resolved s m p with dev := t.dev, dirty := s.dirty ++ [.rect dx dy w h] }

/-- M2MF_BUFFER_NOTIFY between two linear views of device memory that share no bytes: whole words of every line are
copied, the rest of a line is not, no other byte changes, and the lines are reported if the destination matches the
display (43_raster_classes.md R286 to R288). The stored value is re-resolved if the method's configured number is a
handle's (HandleMethodsResolve). -/
def Obligations.MemCopyCopiesLines : Prop :=
  ∀ (p : Word) (s : State), Ready s → s.dev.wf = true →
    let y := s.ch.m2mf
    let m : Word := s.cfg.mthds.m2mfBufferNotify.setWidth 32
    let n := (y.lineLen >>> 2).toNat
    let l := y.lineCount.toNat
    let lo := elemAddr s y.dstObj y.ofsOut y.pitchOut.toNat 4 0 0
    let hi := elemAddr s y.dstObj y.ofsOut y.pitchOut.toNat 4 n l
    PlaneOk s y.dstObj y.ofsOut y.pitchOut.toNat 4 0 0 n l → LinearDev s y.srcObj →
    elemAddr s y.srcObj y.ofsIn y.pitchIn.toNat 4 n l ≤ s.cfg.vramSize →
    (hi ≤ elemAddr s y.srcObj y.ofsIn y.pitchIn.toNat 4 0 0
      ∨ elemAddr s y.srcObj y.ofsIn y.pitchIn.toNat 4 n l ≤ lo) →
    (y.srcObj.toNat + 12 ≤ lo ∨ hi ≤ y.srcObj.toNat) →
    ∃ t, exec (.m2mfBufferNotify p) s = .next t
      ∧ Painted s t y.dstObj y.ofsOut y.pitchOut.toNat 4 0 0 n l (fun _ _ => true)
          (fun i j k => getByte s.dev (elemAddr s y.srcObj y.ofsIn y.pitchIn.toNat 4 i j + k))
      ∧ t = afterParam (fun x => { x with m2mf := { x.m2mf with notify := paramValue s m p } })
          { resolved s m p with dev := t.dev, dirty := s.dirty ++ match s.cfg.displayMatch with
              | .deviceTarget => [.bytes y.ofsOut y.pitchOut (4 * n) l]
              | .oneOf objs => if y.dstObj ∈ objs then [.bytes y.ofsOut y.pitchOut (4 * n) l] else [] }

/-- D3D_CLEAR with one plane enabled and a known element size, on a linear view: the elements of the rectangle hold
the clear value, no other byte changes; with neither plane nothing is written. The rectangle is reported each time
(43_raster_classes.md R297 to R301). The enable masks, the format codes and their sizes and the form of the rectangle
are the configuration's (00_scope.md R6); the defaults, 0xF0 and 0x03, the tables of R301, and both ends inclusive,
stand here. The model's choice, log entry 24: the first entry of a code counts, and the three forms a rectangle can
have. Re-resolution of the parameter: HandleMethodsResolve. -/
def Obligations.ClearFillsOnePlane : Prop :=
  (∀ (cfg : Config) (v : Word),
    let code (g : BitField) : Word := (v >>> g.lo) &&& BitVec.ofNat 32 (2 ^ g.width - 1)
    let cf := (v &&& 0xF).toNat
    let zf := ((v >>> 4) &&& 0xF).toNat
    cbytes cfg v = bytesIn cfg.clear.colorSizes (code cfg.clear.colorCode)
    ∧ zbytes cfg v = bytesIn cfg.clear.zetaSizes (code cfg.clear.zetaCode)
    ∧ (cfg.clear = clearDefault →
        cbytes cfg v = (if 1 ≤ cf ∧ cf ≤ 3 then 2 else if 4 ≤ cf ∧ cf ≤ 8 then 4 else 0)
        ∧ zbytes cfg v = (if zf = 1 then 2 else if zf = 2 then 4 else 0)))
  ∧ (∀ l : Layout, (Config.ofLayout l).clear = clearDefault)
  ∧ clearDefault.colorEnable = 0xF0 ∧ clearDefault.zetaEnable = 0x03 ∧ clearDefault.span = .inclusive
  ∧ ∀ (p : Word) (s : State), Ready s → s.dev.wf = true →
    let y := s.ch.d3d
    let f := s.cfg.clear
    let k := s.cfg.packings
    let m : Word := s.cfg.mthds.d3dClear.setWidth 32
    let q := paramValue s m p
    let span (first second : Nat) : Nat := match f.span with
      | .inclusive => second + 1 - first
      | .exclusive => second - first
      | .count => second
    let x0 := k.d3dClearRectH.fst y.rectH
    let y0 := k.d3dClearRectV.fst y.rectV
    let w := span x0 (k.d3dClearRectH.snd y.rectH)
    let h := span y0 (k.d3dClearRectV.snd y.rectV)
    let cp := k.d3dSurfacePitch.fst y.pitch
    let zp := k.d3dSurfacePitch.snd y.pitch
    let cb := cbytes s.cfg y.format
    let zb := zbytes s.cfg y.format
    let color := q &&& f.colorEnable ≠ 0 ∧ cb ≠ 0
    let depth := q &&& f.zetaEnable ≠ 0 ∧ zb ≠ 0
    let report : State := { resolved s m p with dirty := s.dirty ++ [.rect x0 y0 w h] }
    (color → ¬ depth → PlaneOk s y.colorObj y.colorOfs cp cb x0 y0 w h →
      ∃ t, exec (.d3dClear p) s = .next t
        ∧ Painted s t y.colorObj y.colorOfs cp cb x0 y0 w h (fun _ _ => true) (fun _ _ k => byteOf y.cclear.toNat k)
        ∧ t = afterParam id { report with dev := t.dev })
    ∧ (¬ color → depth → PlaneOk s y.zetaObj y.zetaOfs zp zb x0 y0 w h →
      ∃ t, exec (.d3dClear p) s = .next t
        ∧ Painted s t y.zetaObj y.zetaOfs zp zb x0 y0 w h (fun _ _ => true) (fun _ _ k => byteOf y.zclear.toNat k)
        ∧ t = afterParam id { report with dev := t.dev })
    ∧ (¬ color → ¬ depth → exec (.d3dClear p) s = .next (afterParam id report))

/-- D3D_CLEAR with both planes enabled, on two linear views whose rectangles share no bytes and do not cover each
other's descriptor: both hold their clear value, no other byte changes (43_raster_classes.md R297, R300, R301). Masks,
sizes and the form of the rectangle are the configuration's; the defaults: ClearFillsOnePlane. -/
def Obligations.ClearFillsBothPlanes : Prop :=
  ∀ (p : Word) (s : State), Ready s → s.dev.wf = true →
    let y := s.ch.d3d
    let f := s.cfg.clear
    let k := s.cfg.packings
    let m : Word := s.cfg.mthds.d3dClear.setWidth 32
    let q := paramValue s m p
    let span (first second : Nat) : Nat := match f.span with
      | .inclusive => second + 1 - first
      | .exclusive => second - first
      | .count => second
    let x0 := k.d3dClearRectH.fst y.rectH
    let y0 := k.d3dClearRectV.fst y.rectV
    let w := span x0 (k.d3dClearRectH.snd y.rectH)
    let h := span y0 (k.d3dClearRectV.snd y.rectV)
    let cp := k.d3dSurfacePitch.fst y.pitch
    let zp := k.d3dSurfacePitch.snd y.pitch
    let cb := cbytes s.cfg y.format
    let zb := zbytes s.cfg y.format
    let ca (i j : Nat) := elemAddr s y.colorObj y.colorOfs cp cb (x0 + i) (y0 + j)
    let za (i j : Nat) := elemAddr s y.zetaObj y.zetaOfs zp zb (x0 + i) (y0 + j)
    q &&& f.colorEnable ≠ 0 → q &&& f.zetaEnable ≠ 0 → cb ≠ 0 → zb ≠ 0 →
    PlaneOk s y.colorObj y.colorOfs cp cb x0 y0 w h →
    PlaneOk s y.zetaObj y.zetaOfs zp zb x0 y0 w h →
    (ca w h ≤ za 0 0 ∨ za w h ≤ ca 0 0) →
    (y.zetaObj.toNat + 12 ≤ ca 0 0 ∨ ca w h ≤ y.zetaObj.toNat) →
    ∃ t, exec (.d3dClear p) s = .next t
      ∧ (∀ i j k, i < w → j < h → k < cb → getByte t.dev (ca i j + k) = byteOf y.cclear.toNat k)
      ∧ (∀ i j k, i < w → j < h → k < zb → getByte t.dev (za i j + k) = byteOf y.zclear.toNat k)
      ∧ (∀ a, (∀ i j k, i < w → j < h → k < cb → a ≠ ca i j + k) → (∀ i j k, i < w → j < h → k < zb → a ≠ za i j + k) →
          getByte t.dev a = getByte s.dev a)
      ∧ t = afterParam id { resolved s m p with dev := t.dev, dirty := s.dirty ++ [.rect x0 y0 w h] }

/-- With an unknown 2D surface format, a code other than 4 that the table `bpp` does not list (with the default table
a code that is not 1 to 0xB), the fill, upload and blit executors write nothing and read nothing but report their
rectangle (42_state_classes.md R230). -/
def Obligations.UnknownFormatPaintsNothing : Prop :=
  (∀ cfg : Config, ∀ f : Word, cfg.bpp = bppDefault → f = 0 ∨ 0xC ≤ f.toNat →
    f ≠ 4 ∧ ∀ e ∈ cfg.bpp, e.1 ≠ f)
  ∧ ∀ (i : BitVec 5) (m : Mthd) (p : Word) (s : State), Ready s →
    s.ch.surf.format ≠ 4 → (∀ e ∈ s.cfg.bpp, e.1 ≠ s.ch.surf.format) →
    let g := s.ch.gdi
    let y := s.ch.ifc
    let b := s.ch.blit
    let k := s.cfg.packings
    let n := s.cfg.mthds
    let report (m : Word) (x y w h : Nat) : State := { resolved s m p with dirty := s.dirty ++ [.rect x y w h] }
    (let m := gdiNumber n.gdiUnclippedSize i
     let q := paramValue s m p
     exec (.gdiUnclippedSize i p) s = .next (afterParam id (report m (k.gdiUnclippedPoint.fst g.point)
        (k.gdiUnclippedPoint.snd g.point) (k.gdiUnclippedSize.fst q) (k.gdiUnclippedSize.snd q))))
    ∧ (let m := gdiNumber n.gdiClippedPoint1 i
       let q := paramValue s m p
       let x0 := k.gdiClippedPoint0.fst g.rect0
       let y0 := k.gdiClippedPoint0.snd g.rect0
       exec (.gdiClippedPoint1 i p) s = .next (afterParam id (report m x0 y0 (k.gdiClippedPoint1.fst q - x0)
        (k.gdiClippedPoint1.snd q - y0))))
    ∧ (let m : Word := n.blitSize.setWidth 32
       let q := paramValue s m p
       exec (.blitSize p) s = .next (afterParam id (report m (k.blitPointOut.fst b.pointOut)
        (k.blitPointOut.snd b.pointOut) (k.blitSize.fst q) (k.blitSize.snd q))))
    ∧ (y.state = .streaming → y.buf.length + 1 = y.need →
        ∀ j ∈ [Instr.ifcData100 m p, .ifcData200 m p, .ifcData400 m p], j.wf = true →
          exec j s = .next (afterParam
            (fun x => { x with ifc := { x.ifc with buf := [], need := 0, state := .configuring } })
            (report (n.ifcData.setWidth 32 + (m.setWidth 32 - 0x100)) (k.ifcPoint.fst y.point) (k.ifcPoint.snd y.point)
              (k.ifcSizeOut.fst y.sizeOut) (k.ifcSizeOut.snd y.sizeOut))))

/-- Every executor runs to its end whatever its objects are (paged, in system memory, overlapping, outside device
memory): beside device memory, the requests to system memory, the report and what the re-resolution of its parameter
logs (HandleMethodsResolve), it changes nothing, and in device memory no byte but those of its destination's items
where the translation puts them, if none of these lies on a word through which they are translated; a destination in
system memory leaves all of device memory (43_raster_classes.md R250, R254, R259, R265, R274, R286, R297, 20_memory.md
R88). Packings, numbers, sizes and the form of the clear are the configuration's (00_scope.md R6). -/
def Obligations.ExecutorsComplete : Prop :=
  ∀ (i : BitVec 5) (p : Word) (s : State), Ready s →
    let f := s.ch.surf
    let g := s.ch.gdi
    let b := s.ch.blit
    let u := s.ch.ifc
    let y := s.ch.d3d
    let m := s.ch.m2mf
    let k := s.cfg.packings
    let n := s.cfg.mthds
    let pixels (x y w h : Nat) : List Item :=
      grid w h (fun i j => [⟨f.dstObj, f.ofsDst + BitVec.ofNat 32 ((y + j) * s.dstPitch + (x + i) * s.bppNow), s.bppNow⟩])
    let lines : List Item := grid (m.lineLen >>> 2).toNat m.lineCount.toNat (fun k l =>
      [⟨m.dstObj, m.ofsOut + BitVec.ofNat 32 (l * m.pitchOut.toNat + 4 * k), 4⟩])
    let ran (j : Instr) (d : Word) (g : Channel → Channel) (items : List Item) (rec : State → List DirtyRec) : Prop :=
      ∃ t, exec j s = .next t
        ∧ ((∀ c ∈ items, (dmaXlate s c.obj c.off).1 = .sys) → t.dev = s.dev)
        ∧ (s.dev.wf = true → Steady s items → ∀ a, (∀ c ∈ items, ¬ c.covers s a) → getByte t.dev a = getByte s.dev a)
        ∧ t = afterParam g { resolved s d p with dev := t.dev, sysBus := t.sysBus, sysReads := t.sysReads,
                                                 dirty := s.dirty ++ rec t }
    let paints (j : Instr) (d : Word) (g : Channel → Channel) (x y w h : Nat) : Prop :=
      ran j d g (pixels x y w h) (fun _ => [.rect x y w h])
    (let d := gdiNumber n.gdiUnclippedSize i
     let q := paramValue s d p
     paints (.gdiUnclippedSize i p) d id (k.gdiUnclippedPoint.fst g.point) (k.gdiUnclippedPoint.snd g.point)
        (k.gdiUnclippedSize.fst q) (k.gdiUnclippedSize.snd q))
    ∧ (let d := gdiNumber n.gdiClippedPoint1 i
       let q := paramValue s d p
       let x0 := k.gdiClippedPoint0.fst g.rect0
       let y0 := k.gdiClippedPoint0.snd g.rect0
       paints (.gdiClippedPoint1 i p) d id x0 y0 (k.gdiClippedPoint1.fst q - x0) (k.gdiClippedPoint1.snd q - y0))
    ∧ (let d : Word := n.blitSize.setWidth 32
       let q := paramValue s d p
       paints (.blitSize p) d id (k.blitPointOut.fst b.pointOut) (k.blitPointOut.snd b.pointOut) (k.blitSize.fst q)
        (k.blitSize.snd q))
    ∧ (let d : Word := n.m2mfBufferNotify.setWidth 32
       ran (.m2mfBufferNotify p) d (fun x => { x with m2mf := { x.m2mf with notify := paramValue s d p } }) lines
        (fun t => if displayMatches t m.dstObj then
          [.bytes m.ofsOut m.pitchOut (4 * (m.lineLen >>> 2).toNat) m.lineCount.toNat] else []))
    ∧ (let x0 := k.d3dClearRectH.fst y.rectH
       let y0 := k.d3dClearRectV.fst y.rectV
       let w := spanOf s.cfg.clear.span x0 (k.d3dClearRectH.snd y.rectH)
       let h := spanOf s.cfg.clear.span y0 (k.d3dClearRectV.snd y.rectV)
       let plane (obj ofs : Word) (pitch b : Nat) : List Item :=
        grid w h (fun i j => [⟨obj, ofs + BitVec.ofNat 32 ((y0 + j) * pitch + (x0 + i) * b), b⟩])
       ran (.d3dClear p) (n.d3dClear.setWidth 32) id
        (plane y.colorObj y.colorOfs (k.d3dSurfacePitch.fst y.pitch) (cbytes s.cfg y.format)
          ++ plane y.zetaObj y.zetaOfs (k.d3dSurfacePitch.snd y.pitch) (zbytes s.cfg y.format))
        (fun _ => [.rect x0 y0 w h]))
    ∧ ∀ (m : Mthd), u.state = .streaming → u.buf.length + 1 = u.need →
        ∀ j ∈ [Instr.ifcData100 m p, .ifcData200 m p, .ifcData400 m p], j.wf = true →
          paints j (n.ifcData.setWidth 32 + (m.setWidth 32 - 0x100))
            (fun x => { x with ifc := { x.ifc with buf := [], need := 0, state := .configuring } })
            (k.ifcPoint.fst u.point) (k.ifcPoint.snd u.point) (k.ifcSizeOut.fst u.sizeOut) (k.ifcSizeOut.snd u.sizeOut)

/-- What the fills, the drawing of an image, the clear, and the two copies store through any object (linear, paged, in
system memory, over the end of device memory, rows or pages that share bytes): the elements of their rectangle one
after another, row by row, each where the translation puts it, the last one deciding a shared byte; an element of
system memory is a write request, one outside device memory is dropped. The copies: where the source lies in device
memory and no destination element covers a byte of a source element or of a word through which one is translated. For
the block copy with the scan of R275: reversed in a direction in which the destination lies behind the source
(43_raster_classes.md R260, R267, R274, R275, R287, R300, 42_state_classes.md R230, R231, 20_memory.md R86). Packings,
numbers, sizes, enables and the form of the clear are the configuration's (00_scope.md R6; the defaults:
FillsPaintTheirRectangle, ClearFillsOnePlane). -/
def Obligations.ExecutorsStoreThroughAnyObject : Prop :=
  ∀ (i : BitVec 5) (p : Word) (s : State), Ready s → s.dev.wf = true →
    let f := s.ch.surf
    let b := s.bppNow
    let g := s.ch.gdi
    let u := s.ch.ifc
    let d := s.ch.d3d
    let m := s.ch.m2mf
    let x := s.ch.blit
    let k := s.cfg.packings
    let n := s.cfg.mthds
    let pixel (x y : Nat) : Item := ⟨f.dstObj, f.ofsDst + BitVec.ofNat 32 (y * s.dstPitch + x * b), b⟩
    let source (x y : Nat) : Item := ⟨f.srcObj, f.ofsSrc + BitVec.ofNat 32 (y * s.srcPitch + x * b), b⟩
    let color := if f.format = s.cfg.maskedFormat then g.color &&& 0x00FFFFFF else g.color
    let stores (j : Instr) (ws : List (Item × Word)) : Prop :=
      Steady s (ws.map (·.1)) → ∃ t, exec j s = .next t ∧ Stored s t ws
    let copies (j : Instr) (ms : List (Item × Item)) : Prop :=
      (∀ e ∈ ms, (dmaXlate s e.1.obj e.1.off).1 = .dev) → Steady s (ms.map (·.2)) →
      (∀ e ∈ ms, ∀ c ∈ ms, ∀ a, c.2.covers s a → ¬ e.1.covers s a ∧ ∀ r ∈ xlateReads s e.1.obj e.1.off,
        a < r.toNat ∨ r.toNat + 4 ≤ a) →
      ∃ t, exec j s = .next t
        ∧ Stored s t (ms.map (fun e => (e.2, devRead s (dmaXlate s e.1.obj e.1.off).2 e.1.size)))
    (b ≠ 0 →
      (let q := paramValue s (gdiNumber n.gdiUnclippedSize i) p
       let x0 := k.gdiUnclippedPoint.fst g.point
       let y0 := k.gdiUnclippedPoint.snd g.point
       stores (.gdiUnclippedSize i p) (grid (k.gdiUnclippedSize.fst q) (k.gdiUnclippedSize.snd q)
          (fun i j => [(pixel (x0 + i) (y0 + j), color)])))
      ∧ (let q := paramValue s (gdiNumber n.gdiClippedPoint1 i) p
         let x0 := k.gdiClippedPoint0.fst g.rect0
         let y0 := k.gdiClippedPoint0.snd g.rect0
         stores (.gdiClippedPoint1 i p)
          (grid (k.gdiClippedPoint1.fst q - x0) (k.gdiClippedPoint1.snd q - y0) (fun i j =>
            if k.gdiClipPoint0.fst g.clip0 ≤ x0 + i ∧ x0 + i < k.gdiClipPoint1.fst g.clip1
              ∧ k.gdiClipPoint0.snd g.clip0 ≤ y0 + j ∧ y0 + j < k.gdiClipPoint1.snd g.clip1
            then [(pixel (x0 + i) (y0 + j), color)] else [])))
      ∧ (u.state = .streaming → u.buf.length + 1 = u.need →
          ∀ m, ∀ j ∈ [Instr.ifcData100 m p, .ifcData200 m p, .ifcData400 m p], j.wf = true →
            stores j (grid (k.ifcSizeOut.fst u.sizeOut) (k.ifcSizeOut.snd u.sizeOut) (fun i j =>
              [(pixel (k.ifcPoint.fst u.point + i) (k.ifcPoint.snd u.point + j),
                imagePixel (u.buf ++ [paramValue s (n.ifcData.setWidth 32 + (m.setWidth 32 - 0x100)) p]) b
                  (j * k.ifcSizeIn.fst u.sizeIn + i))])))
      ∧ (let q := paramValue s (n.blitSize.setWidth 32) p
         let w := k.blitSize.fst q
         let h := k.blitSize.snd q
         let sx := k.blitPointIn.fst x.pointIn
         let sy := k.blitPointIn.snd x.pointIn
         let dx := k.blitPointOut.fst x.pointOut
         let dy := k.blitPointOut.snd x.pointOut
         copies (.blitSize p) (grid w h (fun i' j' =>
          let i := if sx < dx then w - 1 - i' else i'
          let j := if sy < dy then h - 1 - j' else j'
          [(source (sx + i) (sy + j), pixel (dx + i) (dy + j))]))))
    ∧ copies (.m2mfBufferNotify p) (grid (m.lineLen >>> 2).toNat m.lineCount.toNat (fun k l =>
        [(⟨m.srcObj, m.ofsIn + BitVec.ofNat 32 (l * m.pitchIn.toNat + 4 * k), 4⟩,
          ⟨m.dstObj, m.ofsOut + BitVec.ofNat 32 (l * m.pitchOut.toNat + 4 * k), 4⟩)]))
    ∧ (let q := paramValue s (n.d3dClear.setWidth 32) p
       let cb := cbytes s.cfg d.format
       let zb := zbytes s.cfg d.format
       let x0 := k.d3dClearRectH.fst d.rectH
       let y0 := k.d3dClearRectV.fst d.rectV
       let w := spanOf s.cfg.clear.span x0 (k.d3dClearRectH.snd d.rectH)
       let h := spanOf s.cfg.clear.span y0 (k.d3dClearRectV.snd d.rectV)
       let plane (obj ofs v : Word) (pitch b : Nat) : List (Item × Word) :=
        grid w h (fun i j => [(⟨obj, ofs + BitVec.ofNat 32 ((y0 + j) * pitch + (x0 + i) * b), b⟩, v)])
       stores (.d3dClear p)
        ((if q &&& s.cfg.clear.colorEnable ≠ 0 ∧ cb ≠ 0 then
            plane d.colorObj d.colorOfs d.cclear (k.d3dSurfacePitch.fst d.pitch) cb else [])
          ++ if q &&& s.cfg.clear.zetaEnable ≠ 0 ∧ zb ≠ 0 then
            plane d.zetaObj d.zetaOfs d.zclear (k.d3dSurfacePitch.snd d.pitch) zb else []))

/-! ## Memory, translation, lookup -/

/-- `DevRead` and `DevWrite` of 1, 2 or 4 bytes: little-endian inside device memory, 0 and dropped whole otherwise; a
write changes its bytes and nothing else (20_memory.md R71, R73, R74). -/
def Obligations.DeviceAccesses : Prop :=
  ∀ (s : State) (a : Word) (n : Nat) (v : Word), s.dev.wf = true → n = 1 ∨ n = 2 ∨ n = 4 →
    let t := devWrite a n v s
    (a.toNat + n ≤ s.cfg.vramSize →
      (devRead s a n).toNat < 2 ^ (8 * n)
      ∧ (∀ k, k < n → byteOf (devRead s a n).toNat k = getByte s.dev (a.toNat + k))
      ∧ (∀ k, k < n → getByte t.dev (a.toNat + k) = byteOf v.toNat k)
      ∧ (∀ b, (b < a.toNat ∨ a.toNat + n ≤ b) → getByte t.dev b = getByte s.dev b)
      ∧ t = { s with dev := t.dev })
    ∧ (s.cfg.vramSize < a.toNat + n → devRead s a n = 0 ∧ t = s)

/-- The address translator (20_memory.md R81, R84, R89): a linear object gives base + adjust + offset; a paged one
keeps the frame bits of the page's entry and the low 12 bits of the adjusted offset, so an offset never crosses into
another frame; the result depends on device memory only. -/
def Obligations.DmaTranslation : Prop :=
  (∀ (s : State) (obj off : Word),
    let word0 := devRead s obj 4
    let adjust : Word := word0 >>> 20
    let adj := off + adjust
    let page : Word := adj >>> 12
    let entry := devRead s (obj + 8 + page * 4) 4
    let r := dmaXlate s obj off
    (r.1 = .sys ↔ word0.getLsbD 17 = true)
    ∧ (word0.getLsbD 13 = true → r.2 = (devRead s (obj + 8) 4 &&& 0xFFFFF000) + adjust + off)
    ∧ (word0.getLsbD 13 = false → r.2 &&& 0xFFFFF000 = entry &&& 0xFFFFF000 ∧ r.2 &&& 0xFFF = adj &&& 0xFFF))
  ∧ ∀ (s s' : State) (obj off : Word), s.dev = s'.dev → s.cfg = s'.cfg → dmaXlate s obj off = dmaXlate s' obj off

/-- The hash resolver (20_memory.md R91 to R94): table base and size are the fields of FIFO_RAMHT (10_state.md R29);
the start slot is the exclusive-or of the chunks of the handle, each as wide as the slot number, and of the channel's
low four bits shifted to the top; the lookup fails exactly when no slot matches, and otherwise gives object and engine
of the first matching slot in probe order from the start, with wraparound. The fields of the register and of a context
word are the configured ones (00_scope.md R6), with those of R29 and the two tables of R92 in numbers. HashLookup
records EV2 exactly where the lookup fails and changes nothing else. -/
def Obligations.LookupFindsTheFirstMatch : Prop :=
  ∀ (s : State) (handle : Word) (c : ChanId),
    let part (f : BitField) (v : Word) : Word := (v >>> f.lo) &&& BitVec.ofNat 32 (2 ^ f.width - 1)
    let bits := (part s.cfg.ramht.size s.ctl.ramht).toNat + 9
    let base : Word := part s.cfg.ramht.base.field s.ctl.ramht <<< s.cfg.ramht.base.shift
    let n := 2 ^ bits
    let chunk (k : Nat) : Word := (handle >>> (bits * k)) &&& BitVec.ofNat 32 (n - 1)
    let chid : Word := c.setWidth 32
    let start := (chunk 0 ^^^ chunk 1 ^^^ chunk 2 ^^^ chunk 3 ^^^ ((chid &&& 0xF) <<< (bits - 4))).toNat
    let slot (k : Nat) : Word := base + BitVec.ofNat 32 ((start + k) % n * 8)
    let ctx (k : Nat) : Word := devRead s (slot k + 4) 4
    let finds (chidOf engOf objOf : Word → Word) : Prop :=
      let hit (k : Nat) : Prop := devRead s (slot k) 4 = handle ∧ chidOf (ctx k) = chid
      (hashFind s handle c = none ↔ ∀ k, k < n → ¬ hit k)
      ∧ ∀ k, k < n → hit k → (∀ j, j < k → ¬ hit j) →
          hashFind s handle c = some (objOf (ctx k), engOf (ctx k))
    (s.cfg.ramht = ramhtDefault → bits = ((s.ctl.ramht >>> 16) &&& 3).toNat + 9
        ∧ base = ((s.ctl.ramht >>> 4) &&& 0x1F) <<< 12)
    ∧ start < n
    ∧ finds (part s.cfg.ctx.chid) (part s.cfg.ctx.eng) (fun x => part s.cfg.ctx.obj x <<< 4)
    ∧ (s.cfg.ctx = ctxLayoutOf .pre →
        finds (fun x => (x >>> 24) &&& 0x1F) (fun x => (x >>> 16) &&& 0xFF) (fun x => (x &&& 0xFFFF) <<< 4))
    ∧ (s.cfg.ctx = ctxLayoutOf .post →
        finds (fun x => (x >>> 23) &&& 0x1F) (fun x => (x >>> 20) &&& 0x7) (fun x => (x &&& 0xFFFFF) <<< 4))
    ∧ (hashLookup handle s).1 = hashFind s handle s.cur
    ∧ (hashFind s handle s.cur ≠ none → (hashLookup handle s).2 = s)
    ∧ (hashFind s handle s.cur = none →
        (hashLookup handle s).2 = { s with events := s.events ++ [.ev2 handle s.cur] })

/-! ## Context switch and tick -/

/-- A context switch: the outgoing registers are stored in the five words of the outgoing slot, those that lie in
device memory, the five of the incoming slot are loaded, a word outside device memory reading 0, the current channel
is the new one, and nothing else changes (44_context_switch.md R310, R311, R315, 10_state.md R30). The field positions
are the table of R310, the default of `FC_OFF`; the field of FIFO_RAMFC and its shift are the configuration's
(00_scope.md R6), with those of R30 in numbers. -/
def Obligations.ContextSwitchMovesFiveFields : Prop :=
  ∀ (s : State) (n : ChanId), s.dev.wf = true → n ≠ s.cur →
    let f := s.cfg.ramfc
    let base : Word := ((s.ctl.ramfc >>> f.field.lo) &&& BitVec.ofNat 32 (2 ^ f.field.width - 1)) <<< f.shift
    let stride : Word := match s.cfg.layout with
      | .pre => 0x40
      | .post => 0x80
    let sema : Word := match s.cfg.layout with
      | .pre => 0x2C
      | .post => 0x30
    let slot (c : ChanId) : Word := base + c.setWidth 32 * stride
    let o := slot s.cur
    let i := slot n
    let t := contextSwitch n s
    (f = ramfcOf s.cfg.layout → base = match s.cfg.layout with
      | .pre => (s.ctl.ramfc &&& 0xFFFF) <<< 8
      | .post => (s.ctl.ramfc &&& 0xFFFF) <<< 16)
    ∧ t.cur = n
    ∧ t = { s with dev := t.dev, live := t.live, ctl := { s.ctl with curchan := n.setWidth 32 } }
    ∧ (s.cfg.fcOff = { put := 0, get := 4, ref := 8, dma := 12, sema := sema } →
        t.live = { put := devRead s i 4, get := devRead s (i + 4) 4, ref := devRead s (i + 8) 4,
                   dmaInstance := devRead s (i + 12) 4, semaphore := devRead s (i + sema) 4 }
        ∧ (∀ e ∈ [(o, s.live.put), (o + 4, s.live.get), (o + 8, s.live.ref), (o + 12, s.live.dmaInstance),
              (o + sema, s.live.semaphore)],
            e.1.toNat + 4 ≤ s.cfg.vramSize → devRead t e.1 4 = e.2)
        ∧ (∀ a, (∀ x ∈ [o, o + 4, o + 8, o + 12, o + sema], x.toNat + 4 ≤ s.cfg.vramSize →
              a < x.toNat ∨ x.toNat + 4 ≤ a) → getByte t.dev a = getByte s.dev a)
        ∧ ((∀ x ∈ [o, o + 4, o + 8, o + 12, o + sema], s.cfg.vramSize < x.toNat + 4) → t.dev = s.dev)
        ∧ ((∀ x ∈ [i, i + 4, i + 8, i + 12, i + sema], s.cfg.vramSize < x.toNat + 4) →
            t.live = { put := 0, get := 0, ref := 0, dmaInstance := 0, semaphore := 0 }))

/-- The tick (45_host_access.md R343, R344, 44_context_switch.md R313): with the flag clear it does nothing; with the
flag set it visits the channels in ascending order, passes over one that is not pending, makes a pending one current
and drains it before the next, and after channel 31 clears the flag. The flag is a bit of FIFO_ACQUIRE, by default bit
0 (10_state.md R31, InterruptWordAndLine). -/
def Obligations.TickVisitsChannels : Prop :=
  ∀ (s : State) (is : List Input) (ts : List Task),
    (s.tasks = [] → s.inputs = .tick :: is →
        (s.ctl.acquire.getLsbD s.cfg.bits.acquire = false → step s = .next { s with inputs := is })
        ∧ (s.ctl.acquire.getLsbD s.cfg.bits.acquire = true → step s = .next { s with inputs := is, tasks := [.tick 0] }))
    ∧ (∀ k, s.tasks = .tick k :: ts → 32 ≤ k →
        step s = .next { s with tasks := ts, ctl := { s.ctl with acquire := s.ctl.acquire &&& ~~~((1 : Word) <<< s.cfg.bits.acquire.val) } })
    ∧ ∀ c : ChanId, s.tasks = .tick c.toNat :: ts →
        let a := slotAddr s c
        let get := if c = s.cur then s.live.get else devRead s (a + s.cfg.fcOff.get) 4
        let put := if c = s.cur then s.live.put else devRead s (a + s.cfg.fcOff.put) 4
        (get = put → step s = .next { s with tasks := .tick (c.toNat + 1) :: ts })
        ∧ (get ≠ put → c = s.cur → step s = .next { s with tasks := .drain :: .tick (c.toNat + 1) :: ts })
        ∧ (get ≠ put → c ≠ s.cur →
            step s = .next { contextSwitch c s with tasks := .drain :: .tick (c.toNat + 1) :: ts })

/-- A tick that finds no pending channel changes nothing but the flag (45_host_access.md R344). -/
def Obligations.IdleTickClearsTheFlag : Prop :=
  ∀ (s : State) (is : List Input), s.tasks = [] → s.inputs = .tick :: is → s.ctl.acquire.getLsbD s.cfg.bits.acquire = true →
    (∀ c : ChanId, pending s c = false) →
    Host.Core.run Sys2Proof.core 34 s
      = .next { s with inputs := is, ctl := { s.ctl with acquire := s.ctl.acquire &&& ~~~((1 : Word) <<< s.cfg.bits.acquire.val) } }

/-! ## The host port -/

/-- A host write of 1 to 8 bytes becomes word operations on the aligned words it touches, ascending, each with the
bytes of the access in its lanes and a mask of those lanes (45_host_access.md R322); they are what is done next. For
an access that runs past 0xFFFFFF the words from 0x1000000 on are the model's choice, log entry 19: the address does
not wrap, and those words are not in the block (RegisterSpaceMap). -/
def Obligations.HostWriteSplitsIntoWords : Prop :=
  ∀ (s : State) (is : List Input) (a : BitVec 24) (size : Fin 8) (data : BitVec 64),
    s.tasks = [] → s.inputs = .write a size data :: is →
    let n := size.val + 1
    ∃ ws : List (Nat × Word × Word),
      step s = .next { s with inputs := is, tasks := ws.map (fun x => .word x.1 x.2.1 x.2.2) }
      ∧ ws.Pairwise (fun x y => x.1 < y.1)
      ∧ (∀ b, a.toNat ≤ b → b < a.toNat + n → ∃ x ∈ ws, x.1 = b / 4 * 4)
      ∧ ∀ x ∈ ws, x.1 % 4 = 0 ∧ x.1 < a.toNat + n ∧ a.toNat < x.1 + 4
          ∧ ∀ k, k < 4 →
            (a.toNat ≤ x.1 + k ∧ x.1 + k < a.toNat + n →
              byteOf x.2.1.toNat k = byteOf data.toNat (x.1 + k - a.toNat) ∧ byteOf x.2.2.toNat k = 0xFF)
            ∧ (¬ (a.toNat ≤ x.1 + k ∧ x.1 + k < a.toNat + n) →
              byteOf x.2.1.toNat k = 0 ∧ byteOf x.2.2.toNat k = 0)

/-- A host read answers, for every address of the access, that byte of the aligned word there, and changes nothing
(45_host_access.md R322); the place of a word decides what it reads as (R323, R324, R321), a register as what it
holds, `INTR` as computed (R326, R329). For an access that runs past 0xFFFFFF the bytes of the words from 0x1000000 on
are the model's choice, log entry 19: the address does not wrap, and those words read 0. -/
def Obligations.HostReadHasNoEffect : Prop :=
  ∀ (s : State) (is : List Input) (a : BitVec 24) (size : Fin 8),
    s.tasks = [] → s.inputs = .read a size :: is →
    (∃ v : BitVec 64, step s = .next { s with inputs := is, replies := s.replies ++ [.value v] }
      ∧ ∀ k, k < 8 → byteOf v.toNat k =
          if k ≤ size.val then byteOf (readWord s ((a.toNat + k) / 4 * 4)).toNat ((a.toNat + k) % 4) else 0)
    ∧ ∀ w, (place s.cfg w = .nothing → readWord s w = 0)
      ∧ (0x1000000 ≤ w → readWord s w = 0)
      ∧ (place s.cfg w = .reg .intr → readWord s w = intrWord s.cfg.bits s.ctl)
      ∧ (∀ r, place s.cfg w = .reg r → readWord s w = regGet s r)
      ∧ ∀ d, place s.cfg w = .object d → readWord s w = devRead s (BitVec.ofNat 32 d) 4

/-- The map of the register space with the defaults of `REGMAP`, in both layouts (10_state.md R28, 45_host_access.md
R320, R323, R332): the twenty registers at their offsets, the object-table aperture, the per-channel aperture with its
three offsets, and everything else not in this block. With any configuration nothing lies from 0x1000000 on: the
model's choice, log entry 19. -/
def Obligations.RegisterSpaceMap : Prop :=
  (∀ l : Layout,
    let cfg := Config.ofLayout l
    let ramfc := match l with
      | .pre => 0x002214
      | .post => 0x002220
    let base := match l with
      | .pre => 0x800000
      | .post => 0xC00000
    let stride := match l with
      | .pre => 0x10000
      | .post => 0x1000
    let registers : List (Nat × Reg) := [
      (0x000100, .intr), (0x000140, .intrEn), (0x001100, .busIntr), (0x001140, .busIntrEn),
      (0x002100, .fifoIntr), (0x002140, .fifoIntrEn), (0x002210, .fifoRamht), (ramfc, .fifoRamfc),
      (0x002600, .fifoAcquire), (0x003204, .fifoCurchan), (0x003214, .fifoSemaphore),
      (0x00322C, .fifoDmaInstance), (0x003240, .fifoPut), (0x003244, .fifoGet), (0x003248, .fifoRef),
      (0x400100, .grIntr), (0x400108, .grNsource), (0x400140, .grIntrEn), (0x600100, .crtcIntr),
      (0x600140, .crtcIntrEn)]
    (∀ e ∈ registers, place cfg e.1 = .reg e.2)
    ∧ (∀ d, d < 0x100000 → place cfg (0x700000 + d) = .object d)
    ∧ (∀ (c : ChanId) (o : Nat), o < stride → place cfg (base + c.toNat * stride + o) =
        if o = 0x40 then .shadow c .put else if o = 0x44 then .shadow c .get
        else if o = 0x48 then .shadow c .ref else .nothing)
    ∧ ∀ a, (∀ e ∈ registers, a ≠ e.1) → (a < 0x700000 ∨ 0x800000 ≤ a) → (a < base ∨ base + 32 * stride ≤ a) →
        place cfg a = .nothing)
  ∧ ∀ (cfg : Config) (a : Nat), 0x1000000 ≤ a → place cfg a = .nothing

/-- A word operation on a control register (10_state.md R28, 45_host_access.md R325 to R331, R336): a read-write
register takes the merged value in its implemented bits, a status register clears the bits written 1, INTR ignores the
write; no other register changes, nothing else of the block changes, and the interrupt line is presented again exactly
for the interrupt registers. Kinds, masks and the registers that move the line are listed register by register; the
implemented bits are those of the configured fields (00_scope.md R6), with the defaults in numbers. -/
def Obligations.RegisterWrites : Prop :=
  (∀ s : State, ∀ e ∈ ([
      (.intrEn, s.ctl.intrEn), (.busIntr, s.ctl.busIntr), (.busIntrEn, s.ctl.busIntrEn),
      (.fifoIntr, s.ctl.fifoIntr), (.fifoIntrEn, s.ctl.fifoIntrEn), (.fifoRamht, s.ctl.ramht),
      (.fifoRamfc, s.ctl.ramfc), (.fifoAcquire, s.ctl.acquire), (.fifoCurchan, s.ctl.curchan),
      (.fifoSemaphore, s.live.semaphore), (.fifoDmaInstance, s.live.dmaInstance), (.fifoPut, s.live.put),
      (.fifoGet, s.live.get), (.fifoRef, s.live.ref), (.grIntr, s.ctl.grIntr), (.grNsource, s.ctl.grNsource),
      (.grIntrEn, s.ctl.grIntrEn), (.crtcIntr, s.ctl.crtcIntr), (.crtcIntrEn, s.ctl.crtcIntrEn)] : List (Reg × Word)),
    regGet s e.1 = e.2)
  ∧ ∀ (s : State) (ts : List Task) (a : Nat) (v m : Word) (r : Reg),
    s.tasks = .word a v m :: ts → place s.cfg a = .reg r →
    let part (f : BitField) : Word := BitVec.ofNat 32 (2 ^ f.width - 1) <<< f.lo
    let implemented : List (Reg × Word) := [
      (.intrEn, (1 : Word) <<< s.cfg.bits.globalEnable.val), (.busIntrEn, 0xFFFFFFFF), (.fifoIntrEn, 0xFFFFFFFF),
      (.fifoRamht, part s.cfg.ramht.base.field ||| part s.cfg.ramht.size), (.fifoRamfc, part s.cfg.ramfc.field),
      (.fifoAcquire, (1 : Word) <<< s.cfg.bits.acquire.val), (.fifoCurchan, 0x0000001F), (.fifoSemaphore, 0xFFFFFFFF),
      (.fifoDmaInstance, 0xFFFFFFFF), (.fifoPut, 0xFFFFFFFF), (.fifoGet, 0xFFFFFFFF), (.fifoRef, 0xFFFFFFFF),
      (.grIntrEn, 0xFFFFFFFF), (.crtcIntrEn, 0xFFFFFFFF)]
    let movesLine : List Reg := [
      .intrEn, .busIntr, .busIntrEn, .fifoIntr, .fifoIntrEn, .grIntr, .grIntrEn, .crtcIntr, .crtcIntrEn,
      .grNsource]
    (∀ l, s.cfg = Config.ofLayout l → implemented = [
      (.intrEn, 1), (.busIntrEn, 0xFFFFFFFF), (.fifoIntrEn, 0xFFFFFFFF), (.fifoRamht, 0x000301F0),
      (.fifoRamfc, 0x0000FFFF), (.fifoAcquire, 1), (.fifoCurchan, 0x0000001F), (.fifoSemaphore, 0xFFFFFFFF),
      (.fifoDmaInstance, 0xFFFFFFFF), (.fifoPut, 0xFFFFFFFF), (.fifoGet, 0xFFFFFFFF), (.fifoRef, 0xFFFFFFFF),
      (.grIntrEn, 0xFFFFFFFF), (.crtcIntrEn, 0xFFFFFFFF)])
    ∧ ∃ t, step s = .next t
      ∧ (∀ e ∈ implemented, r = e.1 → regGet t r = ((regGet s r &&& ~~~m) ||| (v &&& m)) &&& e.2)
      ∧ (r ∈ [Reg.busIntr, .fifoIntr, .grIntr, .crtcIntr, .grNsource] → regGet t r = regGet s r &&& ~~~(v &&& m))
      ∧ (r = .intr → t = { s with tasks := ts })
      ∧ (∀ q, q ≠ r → q ≠ .intr → regGet t q = regGet s q)
      ∧ t = { s with tasks := ts, live := t.live, ctl := t.ctl,
                     irqOut := if r ∈ movesLine then s.irqOut ++ [irqLine s.cfg.bits t.ctl] else s.irqOut }

/-- The per-channel aperture (45_host_access.md R333 to R335): a put write of the current channel sets the put cursor
and starts a drain at once; of another channel it stores into that channel's save slot and nothing else; writes of get
and ref-count, and of what is not in this block, are ignored; reads show the live registers of the current channel and
the saved fields of the others. -/
def Obligations.ChannelAperture : Prop :=
  ∀ (s : State) (ts : List Task) (a : Nat) (v m : Word) (c : ChanId),
    s.tasks = .word a v m :: ts →
    (place s.cfg a = .shadow c .put → c = s.cur →
        step s = .next { s with tasks := .drain :: ts,
                                live := { s.live with put := (s.live.put &&& ~~~m) ||| (v &&& m) } })
    ∧ (s.dev.wf = true → place s.cfg a = .shadow c .put → c ≠ s.cur →
        let x := slotAddr s c + s.cfg.fcOff.put
        ∃ t, step s = .next t ∧ t = { s with tasks := ts, dev := t.dev }
          ∧ (inVram s.cfg x 4 = true → devRead t x 4 = (devRead s x 4 &&& ~~~m) ||| (v &&& m))
          ∧ (inVram s.cfg x 4 = false → t.dev = s.dev)
          ∧ ∀ b, (b < x.toNat ∨ x.toNat + 4 ≤ b) → getByte t.dev b = getByte s.dev b)
    ∧ ((place s.cfg a = .shadow c .get ∨ place s.cfg a = .shadow c .ref ∨ place s.cfg a = .nothing) →
        step s = .next { s with tasks := ts })
    ∧ ∀ w f, place s.cfg w = .shadow c f → readWord s w =
        if c = s.cur then (match f with | .put => s.live.put | .get => s.live.get | .ref => s.live.ref)
        else devRead s (slotAddr s c + (match f with
          | .put => s.cfg.fcOff.put | .get => s.cfg.fcOff.get | .ref => s.cfg.fcOff.ref)) 4

/-- The object-table aperture is a window onto device memory (45_host_access.md R324): the lanes of a write become the
bytes there where they lie in device memory, no other byte changes, nothing else changes, and the word reads back
merged. -/
def Obligations.ObjectAperture : Prop :=
  ∀ (s : State) (ts : List Task) (a n w : Nat) (data : BitVec 64) (d : Nat),
    s.tasks = .word w (laneData a n data w) (laneMask a n w) :: ts → place s.cfg w = .object d → s.dev.wf = true →
    let v := laneData a n data w
    let m := laneMask a n w
    ∃ t, step s = .next t ∧ t = { s with tasks := ts, dev := t.dev }
      ∧ (∀ k, k < 4 → d + k < s.cfg.vramSize → byteOf m.toNat k ≠ 0 → getByte t.dev (d + k) = byteOf v.toNat k)
      ∧ (∀ b, (∀ k, k < 4 → byteOf m.toNat k ≠ 0 → b ≠ d + k) → getByte t.dev b = getByte s.dev b)
      ∧ (d + 4 ≤ s.cfg.vramSize → readWord t w = (readWord s w &&& ~~~m) ||| (v &&& m))

/-- `INTR` has a bit for each of the four domains and no other, whatever the global enable; the line is high exactly
while an enabled cause is pending and the global enable is set (10_state.md R32, R33, 60_exceptions.md R374). The bit
positions are the configuration's (00_scope.md R6 `REGMAP`); the defaults of all of them, 8, 12, 24 and 28 in INTR and
bit 0 of every other register (R31 to R34, R36; the spec's decision D16), stand here. The spec is silent on a
configuration that gives two domains one bit: that the bit then shows their or is the model's choice, log entry 20
(DESIGN CHOICE); with the default bits no two coincide. -/
def Obligations.InterruptWordAndLine : Prop :=
  (∀ (b : BitPlaces) (r : Ctl),
    (∀ k, k < 32 → (intrWord b r).getLsbD k =
      ((k == b.intrFifo.val && (r.fifoIntr &&& r.fifoIntrEn != 0)) || (k == b.intrGr.val && (r.grIntr &&& r.grIntrEn != 0))
        || (k == b.intrCrtc.val && (r.crtcIntr &&& r.crtcIntrEn != 0))
        || (k == b.intrBus.val && (r.busIntr &&& r.busIntrEn != 0))))
    ∧ (irqLine b r = true ↔ intrWord b r ≠ 0 ∧ r.intrEn.getLsbD b.globalEnable = true))
  ∧ ∀ l : Layout, (Config.ofLayout l).bits = {
      intrFifo := 8, intrGr := 12, intrCrtc := 24, intrBus := 28, globalEnable := 0, fifoDeferred := 0, grNotify := 0,
      nsourceNotify := 0, acquire := 0 }

/-- The ports of the external sources, of the servicer and of the snapshot service (45_host_access.md R346, R347,
R349, 60_exceptions.md R371): `ExtRaise` sets the bits of its register and presents the line; `PendTake` removes and
answers the oldest entry, or answers that there is none; a snapshot answers the whole state of 10_state.md and changes
nothing; a restore replaces the whole of it and presents the line. -/
def Obligations.OtherPorts : Prop :=
  ∀ (s : State) (is : List Input), s.tasks = [] →
    (∀ x bits, s.inputs = .extRaise x bits :: is →
      ∃ t, step s = .next t
        ∧ t.ctl = (match x with
          | .busIntr => { s.ctl with busIntr := s.ctl.busIntr ||| bits }
          | .fifoIntr => { s.ctl with fifoIntr := s.ctl.fifoIntr ||| bits }
          | .grIntr => { s.ctl with grIntr := s.ctl.grIntr ||| bits }
          | .crtcIntr => { s.ctl with crtcIntr := s.ctl.crtcIntr ||| bits }
          | .grNsource => { s.ctl with grNsource := s.ctl.grNsource ||| bits })
        ∧ t = { s with inputs := is, ctl := t.ctl, irqOut := s.irqOut ++ [irqLine s.cfg.bits t.ctl] })
    ∧ (s.inputs = .pendTake :: is →
      (s.pendq = [] → step s = .next { s with inputs := is, replies := s.replies ++ [.pend none] })
      ∧ ∀ e q, s.pendq = e :: q →
        step s = .next { s with inputs := is, pendq := q, replies := s.replies ++ [.pend (some e)] })
    ∧ (s.inputs = .snapshot :: is →
      step s = .next { s with inputs := is, replies := s.replies ++ [.snapshot s.toBlock] })
    ∧ ∀ b, s.inputs = .restore b :: is →
      step s = .next { s with toBlock := b, inputs := is, irqOut := s.irqOut ++ [irqLine s.cfg.bits b.ctl] }

/-- The reset port leaves every register 0, every channel's parser, bindings and class state zero, the upload
configuring and empty, the queue empty, and device memory as it was; the line is low (70_reset_and_hazards.md R400).
The model's own fields stay: the model's choice, log entry 12. -/
def Obligations.ResetLeaves : Prop :=
  ∀ (s : State) (is : List Input), s.tasks = [] → s.inputs = .reset :: is →
    ∃ t, step s = .next t
      ∧ t.live = { put := 0, get := 0, ref := 0, dmaInstance := 0, semaphore := 0 }
      ∧ (∀ r : Reg, regGet t r = 0)
      ∧ (∀ c : ChanId,
          (t.chan c).remaining = 0 ∧ (t.chan c).subc = 0 ∧ (t.chan c).mthd = 0 ∧ (t.chan c).ni = false
          ∧ (t.chan c).subActive = false ∧ (t.chan c).subReturn = 0
          ∧ (∀ k : SubId, (t.chan c).subAt k = { object := 0, engine := 0, notifier := 0 })
          ∧ (t.chan c).notifyArmed = false ∧ (t.chan c).notifyType = 0
          ∧ (t.chan c).clip = { point := 0, size := 0 } ∧ (t.chan c).rop = 0
          ∧ (t.chan c).patt.color0 = 0 ∧ (t.chan c).patt.color1 = 0
          ∧ (∀ k, k < 2 → (t.chan c).patt.mono[k]! = 0) ∧ (∀ k, k < 16 → (t.chan c).patt.idx[k]! = 0)
          ∧ (t.chan c).surf = { srcObj := 0, dstObj := 0, format := 0, pitch := 0, ofsSrc := 0, ofsDst := 0 }
          ∧ (t.chan c).gdi = { color := 0, point := 0, clip0 := 0, clip1 := 0, rect0 := 0 }
          ∧ (t.chan c).ifc = { state := .configuring, point := 0, sizeOut := 0, sizeIn := 0, buf := [], need := 0,
                               fastOff := 0 }
          ∧ (t.chan c).blit = { pointIn := 0, pointOut := 0 }
          ∧ (t.chan c).m2mf = { srcObj := 0, dstObj := 0, ofsIn := 0, ofsOut := 0, pitchIn := 0, pitchOut := 0,
                                lineLen := 0, lineCount := 0, format := 0, notify := 0 }
          ∧ (t.chan c).d3d = { colorObj := 0, zetaObj := 0, format := 0, pitch := 0, colorOfs := 0, zetaOfs := 0,
                               zclear := 0, cclear := 0, rectH := 0, rectV := 0 })
      ∧ t.pendq = [] ∧ t.dev = s.dev ∧ irqLine s.cfg.bits t.ctl = false
      ∧ t = { s with toBlock := t.toBlock, inputs := is, irqOut := s.irqOut ++ [false] }

/-! ## Invariants -/

/-- Every step keeps device memory in its canonical form with no address beyond VRAM_SIZE listed (10_state.md R52,
20_memory.md R74), given that blocks to be restored have it. -/
def Obligations.StepKeepsMemoryInv : Prop :=
  ∀ s t : State, MemoryInv s → step s = .next t → MemoryInv t

/-- Every step keeps the unimplemented register bits 0 (45_host_access.md R326, 10_state.md R23, R29 to R31, R33),
given that blocks to be restored have them 0. -/
def Obligations.StepKeepsRegisterInv : Prop :=
  ∀ s t : State, RegisterInv s → step s = .next t → RegisterInv t

/-- Every step keeps every channel's image-upload record consistent: words are still wanted exactly while streaming,
and no other state has a buffer (43_raster_classes.md R269, R270). -/
def Obligations.StepKeepsUploadInv : Prop :=
  ∀ s t : State, UploadInv s → step s = .next t → UploadInv t

/-- The level last presented to the sink is the line, after every step: `UpdateIrq` is called at every place that can
change an operand (60_exceptions.md R374). -/
def Obligations.StepKeepsLineInv : Prop :=
  ∀ s t : State, LineInv s → step s = .next t → LineInv t

/-- One drain at a time: no step starts a drain behind another task, or from inside a drain (40_command_words.md
R150). -/
def Obligations.StepKeepsDrainInv : Prop :=
  ∀ s t : State, DrainInv s → step s = .next t → DrainInv t

/-- The state after reset meets every invariant above. -/
def Obligations.ResetMeetsTheInvariants : Prop :=
  MemoryInv State.reset ∧ RegisterInv State.reset ∧ UploadInv State.reset ∧ LineInv State.reset ∧ DrainInv State.reset
end

