-- ==== Sys2Proof/Laws/Bits.lean ====
section
/-! SUPPORT. Bit fields and bytes as arithmetic on natural numbers. -/
namespace Sys2Proof

theorem and_mask_toNat (x : Word) (k : Nat) (h : k ≤ 32) :
    (x &&& BitVec.ofNat 32 (2 ^ k - 1)).toNat = x.toNat % 2 ^ k := by
  have hk : 2 ^ k ≤ 2 ^ 32 := Nat.pow_le_pow_right (by decide) h
  have hp : 0 < 2 ^ k := Nat.pos_of_ne_zero (by simp)
  rw [BitVec.toNat_and, BitVec.toNat_ofNat, Nat.mod_eq_of_lt (by omega : 2 ^ k - 1 < 2 ^ 32),
    Nat.and_two_pow_sub_one_eq_mod]

/-- A field as a quotient and a remainder (R10). -/
theorem field_toNat (hi lo : Nat) (v : Word) (h : hi + 1 - lo ≤ 32) :
    (field hi lo v).toNat = v.toNat / 2 ^ lo % 2 ^ (hi + 1 - lo) := by
  rw [field, and_mask_toNat _ _ h, BitVec.toNat_ushiftRight, Nat.shiftRight_eq_div_pow]

/-- A field, cut to its width, is a slice of the word's bits. -/
theorem field_setWidth (lo k : Nat) (v : Word) (hk : k ≤ 32) (h1 : 1 ≤ k) :
    (field (lo + k - 1) lo v).setWidth k = v.extractLsb' lo k := by
  apply BitVec.eq_of_toNat_eq
  have e : lo + k - 1 + 1 - lo = k := by omega
  rw [BitVec.toNat_setWidth, field_toNat _ _ _ (by omega), e, BitVec.extractLsb'_toNat, Nat.mod_mod,
    Nat.shiftRight_eq_div_pow]

/-- A one-bit field is 1 exactly where the bit is. -/
theorem field_bit (k : Nat) (v : Word) : field k k v = if v.getLsbD k then 1 else 0 := by
  apply BitVec.eq_of_toNat_eq
  rw [field_toNat _ _ _ (by omega), show k + 1 - k = 1 by omega, BitVec.getLsbD, Nat.testBit_eq_decide_div_mod_eq]
  by_cases h : v.toNat / 2 ^ k % 2 = 1
  · simp [h]
  · have : v.toNat / 2 ^ k % 2 = 0 := by omega
    simp [this]

theorem lo16_eq (v : Word) : lo16 v = v.toNat % 65536 := by
  rw [lo16, field_toNat _ _ _ (by omega)]; simp

theorem hi16_eq (v : Word) : hi16 v = v.toNat / 65536 := by
  rw [hi16, field_toNat _ _ _ (by omega)]
  have := v.isLt
  simp; omega

theorem lo16_lt (v : Word) : lo16 v < 65536 := by rw [lo16_eq]; omega

theorem hi16_lt (v : Word) : hi16 v < 65536 := by have := v.isLt; rw [hi16_eq]; omega

/-- A byte as a quotient and a remainder (R71). -/
theorem byteOf_toNat (v k : Nat) : (byteOf v k).toNat = v / 2 ^ (8 * k) % 256 := by
  simp [byteOf, Nat.shiftRight_eq_div_pow]

theorem toNat_append_add {m n : Nat} (x : BitVec m) (y : BitVec n) :
    (x ++ y).toNat = x.toNat * 2 ^ n + y.toNat := by
  rw [BitVec.toNat_append, ← Nat.shiftLeft_add_eq_or_of_lt y.isLt, Nat.shiftLeft_eq]

/-- A word is the little-endian sum of its bytes. -/
theorem wordOfBytes_toNat (b0 b1 b2 b3 : Byte) :
    (wordOfBytes b0 b1 b2 b3).toNat = b0.toNat + 256 * (b1.toNat + 256 * (b2.toNat + 256 * b3.toNat)) := by
  rw [wordOfBytes, toNat_append_add, toNat_append_add, toNat_append_add]
  omega

/-- Cutting a word into its bytes and joining them gives it back. -/
theorem wordOfBytes_byteOf (w : Word) :
    wordOfBytes (byteOf w.toNat 0) (byteOf w.toNat 1) (byteOf w.toNat 2) (byteOf w.toNat 3) = w := by
  apply BitVec.eq_of_toNat_eq
  have := w.isLt
  rw [wordOfBytes_toNat]
  simp only [byteOf_toNat]
  omega

/-- A byte of a word as a slice of its bits. -/
theorem byteOf_word (v : Word) (k : Nat) : byteOf v.toNat k = (v >>> (8 * k)).setWidth 8 := by
  apply BitVec.eq_of_toNat_eq
  simp [byteOf]

theorem byteOf_or (x y : Word) (k : Nat) : byteOf (x ||| y).toNat k = byteOf x.toNat k ||| byteOf y.toNat k := by
  simp only [byteOf_word]
  ext i hi; simp

/-- A byte put in lane `j` of a word is byte `j` of it, and the other bytes are 0. -/
theorem byteOf_lane (b : Byte) {j k : Nat} (hj : j < 4) (hk : k < 4) :
    byteOf (b.setWidth 32 <<< (8 * j) : Word).toNat k = if j = k then b else 0 := by
  apply BitVec.eq_of_toNat_eq
  have hb := b.isLt
  have e : (b.setWidth 32 <<< (8 * j) : Word).toNat = b.toNat * 2 ^ (8 * j) % 2 ^ 32 := by
    rw [BitVec.toNat_shiftLeft, Nat.shiftLeft_eq, BitVec.toNat_setWidth, Nat.mod_mul_mod]
  rw [byteOf_toNat, e]
  have : b.toNat * 2 ^ (8*j) < 2 ^ 32 := by
    have : 2 ^ (8 * j) ≤ 2 ^ 24 := Nat.pow_le_pow_right (by decide) (by omega)
    calc _ ≤ 255 * 2 ^ 24 := Nat.mul_le_mul (by omega) this
      _ < _ := by norm_num
  rw [Nat.mod_eq_of_lt this]
  interval_cases j <;> interval_cases k <;> simp <;> omega

/-- A merge is a merge of each byte (R323). -/
theorem byteOf_merge (old v m : Word) {k : Nat} (hk : k < 4) :
    byteOf (merge old v m).toNat k
      = (byteOf old.toNat k &&& ~~~ byteOf m.toNat k) ||| (byteOf v.toNat k &&& byteOf m.toNat k) := by
  simp only [byteOf_word, merge]
  ext i hi
  have : 8 * k + i < 32 := by omega
  simp [this]

/-- Two words with the same bytes are equal. -/
theorem word_ext {x y : Word} (h : ∀ k, k < 4 → byteOf x.toNat k = byteOf y.toNat k) : x = y := by
  rw [← wordOfBytes_byteOf x, ← wordOfBytes_byteOf y, h 0 (by omega), h 1 (by omega), h 2 (by omega), h 3 (by omega)]

end Sys2Proof
end

