-- ==== Sys2Proof/Laws/Memory.lean ====
section
/-! SUPPORT. Device memory: reading back what was written, leaving every other byte alone, keeping the canonical form. -/
namespace Sys2Proof.Machine

open Sys2Proof

/-! ## One byte -/

/-- `lo` lies below every listed address. -/
theorem memWfFrom_weaken {m : Memory} {lo : Option Nat} (h : memWfFrom lo m = true) : memWfFrom none m = true := by
  cases m with
  | nil => rfl
  | cons e m => obtain ⟨k, v⟩ := e; simp [memWfFrom] at h ⊢; exact ⟨h.1.2, h.2⟩

theorem memWfFrom_lower {m : Memory} {l l' : Nat} (hl : l' ≤ l) (h : memWfFrom (some l) m = true) :
    memWfFrom (some l') m = true := by
  cases m with
  | nil => rfl
  | cons e m => obtain ⟨k, v⟩ := e; simp [memWfFrom] at h ⊢; exact ⟨⟨by omega, h.1.2⟩, h.2⟩

theorem getByte_setByte_same {m : Memory} {lo : Option Nat} (hm : memWfFrom lo m = true) (a : Nat) (v : Byte) :
    getByte (setByte m a v) a = v := by
  induction m generalizing lo with
  | nil => by_cases hv : v = memFill <;> simp [setByte, getByte, hv]
  | cons e m ih =>
    obtain ⟨k, x⟩ := e
    simp [memWfFrom] at hm
    simp only [setByte]
    split
    · split
      · subst_vars; simp [getByte, *]
      · simp [getByte]
    · split
      · subst_vars
        split
        · subst_vars
          cases m with
          | nil => simp [getByte]
          | cons e m => obtain ⟨k', x'⟩ := e; simp [memWfFrom] at hm; simp [getByte, hm.2.1.1]
        · simp [getByte]
      · simp [getByte, *, ih hm.2]

theorem getByte_setByte_other {m : Memory} {lo : Option Nat} (hm : memWfFrom lo m = true) {a b : Nat} (v : Byte)
    (h : b ≠ a) : getByte (setByte m a v) b = getByte m b := by
  induction m generalizing lo with
  | nil =>
    simp only [setByte]
    split
    · rfl
    · simp only [getByte]; split
      · rfl
      · simp
  | cons e m ih =>
    obtain ⟨k, x⟩ := e
    simp [memWfFrom] at hm
    simp only [setByte]
    split
    · split
      · rfl
      · simp only [getByte]
        by_cases hb : b < a
        · simp [hb, show b < k by omega]
        · simp [hb, h]
    · split
      · subst_vars
        split
        · simp only [getByte, h]
          by_cases hb : b < k
          · simp only [hb, if_true]
            cases m with
            | nil => rfl
            | cons e m =>
              obtain ⟨k', x'⟩ := e
              simp [memWfFrom] at hm
              simp [getByte, show b < k' by omega]
          · simp [hb]
        · simp [getByte, h]
      · simp only [getByte, ih hm.2]

theorem setByte_wfFrom {m : Memory} {lo : Option Nat} (hm : memWfFrom lo m = true) (a : Nat) (v : Byte)
    (ha : ∀ l, lo = some l → l < a) : memWfFrom lo (setByte m a v) = true := by
  induction m generalizing lo with
  | nil =>
    simp only [setByte]
    split
    · rfl
    · cases lo with
      | none => simp [memWfFrom, *]
      | some l => simp [memWfFrom, *, ha l rfl]
  | cons e m ih =>
    obtain ⟨k, x⟩ := e
    simp only [memWfFrom, Bool.and_eq_true] at hm
    obtain ⟨⟨h1, h2⟩, h3⟩ := hm
    simp only [setByte]
    split
    · split
      · simp only [memWfFrom, Bool.and_eq_true]; exact ⟨⟨h1, h2⟩, h3⟩
      · rename_i hk hv
        have h2' : x ≠ memFill := by simpa using h2
        cases lo with
        | none => simp [memWfFrom, hv, hk, h2', h3]
        | some l => simp [memWfFrom, hv, hk, h2', h3, ha l rfl]
    · split
      · subst_vars
        split
        · cases lo with
          | none => exact memWfFrom_weaken h3
          | some l => exact memWfFrom_lower (by have := ha l rfl; omega) h3
        · rename_i hv
          simp only [memWfFrom, Bool.and_eq_true]; exact ⟨⟨h1, by simpa using hv⟩, h3⟩
      · simp only [memWfFrom, Bool.and_eq_true]
        exact ⟨⟨h1, h2⟩, ih h3 (fun l hl => by cases hl; omega)⟩

/-- A byte write keeps the canonical form. -/
theorem setByte_wf {m : Memory} (hm : m.wf = true) (a : Nat) (v : Byte) : (setByte m a v).wf = true :=
  setByte_wfFrom hm a v (by simp)

theorem mem_setByte {m : Memory} {a : Nat} {v : Byte} {e : Host.Cell} (h : e ∈ setByte m a v) :
    e ∈ m ∨ e = (a, v) := by
  induction m with
  | nil => simp only [setByte] at h; split at h <;> simp_all
  | cons x m ih =>
    obtain ⟨k, y⟩ := x
    simp only [setByte] at h
    split at h
    · split at h <;> simp_all; tauto
    · split at h
      · split at h <;> simp_all; tauto
      · simp only [List.mem_cons] at h ⊢
        rcases h with h | h
        · exact .inl (.inl h)
        · rcases ih h with h | h
          · exact .inl (.inr h)
          · exact .inr h

/-! ## Several bytes -/

theorem writeLE_wf {m : Memory} (hm : m.wf = true) (a n v : Nat) : (writeLE m a n v).wf = true := by
  induction n generalizing m a v with
  | zero => exact hm
  | succ n ih => exact ih (setByte_wf hm a _) _ _

theorem mem_writeLE {m : Memory} {a n v : Nat} {e : Host.Cell} (h : e ∈ writeLE m a n v) :
    e ∈ m ∨ a ≤ e.1 ∧ e.1 < a + n := by
  induction n generalizing m a v with
  | zero => exact .inl h
  | succ n ih =>
    rcases ih h with h | h
    · rcases mem_setByte h with h | h
      · exact .inl h
      · subst h; exact .inr ⟨by simp, by simp⟩
    · exact .inr ⟨by omega, by omega⟩

/-- A write leaves every byte outside it alone. -/
theorem getByte_writeLE_other {m : Memory} (hm : m.wf = true) {a n v b : Nat} (h : b < a ∨ a + n ≤ b) :
    getByte (writeLE m a n v) b = getByte m b := by
  induction n generalizing m a v with
  | zero => rfl
  | succ n ih =>
    rw [writeLE, ih (setByte_wf hm a _) (by omega), getByte_setByte_other hm _ (by omega)]

theorem byteOf_zero (v : Nat) : BitVec.ofNat 8 v = byteOf v 0 := by simp [byteOf]

theorem byteOf_succ (v k : Nat) : byteOf (v / 256) k = byteOf v (k + 1) := by
  simp only [byteOf, Nat.shiftRight_eq_div_pow, Nat.div_div_eq_div_mul]
  congr 2
  rw [show 8 * (k + 1) = 8 + 8 * k by omega, Nat.pow_add]

/-- A write puts its bytes in place, the least significant at the lowest address. -/
theorem getByte_writeLE_same {m : Memory} (hm : m.wf = true) {a n v k : Nat} (h : k < n) :
    getByte (writeLE m a n v) (a + k) = byteOf v k := by
  induction n generalizing m a v k with
  | zero => omega
  | succ n ih =>
    rw [writeLE]
    cases k with
    | zero =>
      rw [getByte_writeLE_other (setByte_wf hm a _) (by omega), Nat.add_zero, getByte_setByte_same hm, byteOf_zero]
    | succ k =>
      rw [show a + (k + 1) = a + 1 + k by omega, ih (setByte_wf hm a _) (by omega), byteOf_succ]

theorem readLE_lt (m : Memory) (a n : Nat) : readLE m a n < 2 ^ (8 * n) := by
  induction n generalizing a with
  | zero => simp [readLE]
  | succ n ih =>
    have := ih (a + 1)
    have hb := (getByte m a).isLt
    rw [readLE, show 8 * (n + 1) = 8 + 8 * n by omega, Nat.pow_add]
    omega

theorem byteOf_readLE {m : Memory} {a n k : Nat} (h : k < n) : byteOf (readLE m a n) k = getByte m (a + k) := by
  induction n generalizing a k with
  | zero => omega
  | succ n ih =>
    rw [readLE]
    cases k with
    | zero =>
      rw [← byteOf_zero]
      apply BitVec.eq_of_toNat_eq
      have hb := (getByte m a).isLt
      simp; omega
    | succ k =>
      rw [← byteOf_succ, show ((getByte m a).toNat + 256 * readLE m (a + 1) n) / 256 = readLE m (a + 1) n by
        have hb := (getByte m a).isLt; omega, ih (by omega)]
      congr 1; omega

/-- What a read gives depends on its bytes only. -/
theorem readLE_congr {m m' : Memory} {a n : Nat} (h : ∀ k, k < n → getByte m' (a + k) = getByte m (a + k)) :
    readLE m' a n = readLE m a n := by
  induction n generalizing a with
  | zero => rfl
  | succ n ih =>
    have h0 := h 0 (by omega)
    rw [Nat.add_zero] at h0
    rw [readLE, readLE, h0, ih]
    intro k hk
    have := h (k + 1) (by omega)
    rwa [show a + 1 + k = a + (k + 1) by omega]

/-- The little-endian number in the bytes of a number. -/
theorem readLE_of_bytes {m : Memory} {a n v : Nat} (h : ∀ k, k < n → getByte m (a + k) = byteOf v k) :
    readLE m a n = v % 2 ^ (8 * n) := by
  induction n generalizing a v with
  | zero => simp [readLE, Nat.mod_one]
  | succ n ih =>
    have h0 := h 0 (by omega)
    rw [Nat.add_zero, ← byteOf_zero] at h0
    rw [readLE, h0, ih (v := v / 256)]
    · rw [show 8 * (n + 1) = 8 + 8 * n by omega, Nat.pow_add, Nat.mod_mul]
      simp
    · intro k hk
      rw [byteOf_succ, ← h (k + 1) (by omega)]
      congr 1; omega

/-- A read after a write to the same place gives the value written. -/
theorem readLE_writeLE_same {m : Memory} (hm : m.wf = true) (a n v : Nat) :
    readLE (writeLE m a n v) a n = v % 2 ^ (8 * n) :=
  readLE_of_bytes (fun _ hk => getByte_writeLE_same hm hk)

theorem readLE_writeLE_other {m : Memory} (hm : m.wf = true) {a n v b l : Nat} (h : b + l ≤ a ∨ a + n ≤ b) :
    readLE (writeLE m a n v) b l = readLE m b l :=
  readLE_congr (fun _ _ => getByte_writeLE_other hm (by omega))

/-! ## `DevRead` and `DevWrite` -/

theorem inVram_iff (cfg : Config) (a : Word) (n : Nat) : inVram cfg a n = true ↔ a.toNat + n ≤ cfg.vramSize := by
  simp [inVram]

theorem devRead_eq {s : State} {a : Word} {n : Nat} (h : a.toNat + n ≤ s.cfg.vramSize) :
    devRead s a n = BitVec.ofNat 32 (readLE s.dev a.toNat n) := by simp [devRead, inVram, h]

theorem devRead_out {s : State} {a : Word} {n : Nat} (h : s.cfg.vramSize < a.toNat + n) : devRead s a n = 0 := by
  simp [devRead, inVram, Nat.not_le.mpr h]

theorem devWrite_out {s : State} {a v : Word} {n : Nat} (h : s.cfg.vramSize < a.toNat + n) : devWrite a n v s = s := by
  simp [devWrite, inVram, Nat.not_le.mpr h]

/-- What a `DevWrite` can do: it changes device memory only. -/
theorem devWrite_frame (a : Word) (n : Nat) (v : Word) (s : State) :
    devWrite a n v s = { s with dev := (devWrite a n v s).dev } := by
  unfold devWrite; split <;> rfl

theorem devWrite_dev {s : State} {a v : Word} {n : Nat} (h : a.toNat + n ≤ s.cfg.vramSize) :
    (devWrite a n v s).dev = writeLE s.dev a.toNat n v.toNat := by simp [devWrite, inVram, h]

theorem devWrite_wf {s : State} (hs : s.dev.wf = true) (a : Word) (n : Nat) (v : Word) :
    (devWrite a n v s).dev.wf = true := by
  unfold devWrite; split
  · exact writeLE_wf hs _ _ _
  · exact hs

/-- A `DevWrite` leaves every byte outside it alone. -/
theorem getByte_devWrite_other {s : State} (hs : s.dev.wf = true) {a v : Word} {n b : Nat}
    (h : b < a.toNat ∨ a.toNat + n ≤ b) : getByte (devWrite a n v s).dev b = getByte s.dev b := by
  unfold devWrite; split
  · exact getByte_writeLE_other hs h
  · rfl

theorem getByte_devWrite_same {s : State} (hs : s.dev.wf = true) {a v : Word} {n k : Nat}
    (h : a.toNat + n ≤ s.cfg.vramSize) (hk : k < n) :
    getByte (devWrite a n v s).dev (a.toNat + k) = byteOf v.toNat k := by
  rw [devWrite_dev h]; exact getByte_writeLE_same hs hk

/-- A `DevRead` of words a `DevWrite` does not touch. -/
theorem devRead_devWrite_other {s : State} (hs : s.dev.wf = true) {a v b : Word} {n l : Nat}
    (h : b.toNat + l ≤ a.toNat ∨ a.toNat + n ≤ b.toNat) : devRead (devWrite a n v s) b l = devRead s b l := by
  have hc : (devWrite a n v s).cfg = s.cfg := by rw [devWrite_frame]
  simp only [devRead, hc]
  split
  · rw [readLE_congr]
    intro k hk
    exact getByte_devWrite_other hs (by omega)
  · rfl

/-- A `DevRead` of the word a `DevWrite` wrote. -/
theorem devRead_devWrite_same {s : State} (hs : s.dev.wf = true) {a v : Word}
    (h : a.toNat + 4 ≤ s.cfg.vramSize) : devRead (devWrite a 4 v s) a 4 = v := by
  have hc : (devWrite a 4 v s).cfg = s.cfg := by rw [devWrite_frame]
  rw [devRead_eq (by rw [hc]; exact h), devWrite_dev h, readLE_writeLE_same hs]
  apply BitVec.eq_of_toNat_eq
  have := v.isLt
  simp only [BitVec.toNat_ofNat]
  omega

end Sys2Proof.Machine
end

