-- ==== Sys2Proof/Laws/State.lean ====
section
/-! SUPPORT. What each named update leaves in each field of State: one lemma per field per update. -/
namespace Sys2Proof.Machine

open Sys2Proof

/-! ## Updates of one field -/

@[simp] theorem setChan_live (s : State) (c : ChanId) (x : Channel) : (s.setChan c x).live = s.live := rfl
@[simp] theorem setChan_ctl (s : State) (c : ChanId) (x : Channel) : (s.setChan c x).ctl = s.ctl := rfl
@[simp] theorem setChan_chans (s : State) (c : ChanId) (x : Channel) : (s.setChan c x).chans = s.chans.set c.toNat x c.isLt := rfl
@[simp] theorem setChan_dev (s : State) (c : ChanId) (x : Channel) : (s.setChan c x).dev = s.dev := rfl
@[simp] theorem setChan_pendq (s : State) (c : ChanId) (x : Channel) : (s.setChan c x).pendq = s.pendq := rfl
@[simp] theorem setChan_cfg (s : State) (c : ChanId) (x : Channel) : (s.setChan c x).cfg = s.cfg := rfl
@[simp] theorem setChan_tasks (s : State) (c : ChanId) (x : Channel) : (s.setChan c x).tasks = s.tasks := rfl
@[simp] theorem setChan_inputs (s : State) (c : ChanId) (x : Channel) : (s.setChan c x).inputs = s.inputs := rfl
@[simp] theorem setChan_failIn (s : State) (c : ChanId) (x : Channel) : (s.setChan c x).failIn = s.failIn := rfl
@[simp] theorem setChan_sysReads (s : State) (c : ChanId) (x : Channel) : (s.setChan c x).sysReads = s.sysReads := rfl
@[simp] theorem setChan_clockReads (s : State) (c : ChanId) (x : Channel) : (s.setChan c x).clockReads = s.clockReads := rfl
@[simp] theorem setChan_clockLast (s : State) (c : ChanId) (x : Channel) : (s.setChan c x).clockLast = s.clockLast := rfl
@[simp] theorem setChan_events (s : State) (c : ChanId) (x : Channel) : (s.setChan c x).events = s.events := rfl
@[simp] theorem setChan_dirty (s : State) (c : ChanId) (x : Channel) : (s.setChan c x).dirty = s.dirty := rfl
@[simp] theorem setChan_sysBus (s : State) (c : ChanId) (x : Channel) : (s.setChan c x).sysBus = s.sysBus := rfl
@[simp] theorem setChan_irqOut (s : State) (c : ChanId) (x : Channel) : (s.setChan c x).irqOut = s.irqOut := rfl
@[simp] theorem setChan_replies (s : State) (c : ChanId) (x : Channel) : (s.setChan c x).replies = s.replies := rfl

@[simp] theorem modCh_live (f : Channel → Channel) (s : State) : (modCh f s).live = s.live := rfl
@[simp] theorem modCh_ctl (f : Channel → Channel) (s : State) : (modCh f s).ctl = s.ctl := rfl
@[simp] theorem modCh_chans (f : Channel → Channel) (s : State) : (modCh f s).chans = s.chans.set s.cur.toNat (f s.ch) s.cur.isLt := rfl
@[simp] theorem modCh_dev (f : Channel → Channel) (s : State) : (modCh f s).dev = s.dev := rfl
@[simp] theorem modCh_pendq (f : Channel → Channel) (s : State) : (modCh f s).pendq = s.pendq := rfl
@[simp] theorem modCh_cfg (f : Channel → Channel) (s : State) : (modCh f s).cfg = s.cfg := rfl
@[simp] theorem modCh_tasks (f : Channel → Channel) (s : State) : (modCh f s).tasks = s.tasks := rfl
@[simp] theorem modCh_inputs (f : Channel → Channel) (s : State) : (modCh f s).inputs = s.inputs := rfl
@[simp] theorem modCh_failIn (f : Channel → Channel) (s : State) : (modCh f s).failIn = s.failIn := rfl
@[simp] theorem modCh_sysReads (f : Channel → Channel) (s : State) : (modCh f s).sysReads = s.sysReads := rfl
@[simp] theorem modCh_clockReads (f : Channel → Channel) (s : State) : (modCh f s).clockReads = s.clockReads := rfl
@[simp] theorem modCh_clockLast (f : Channel → Channel) (s : State) : (modCh f s).clockLast = s.clockLast := rfl
@[simp] theorem modCh_events (f : Channel → Channel) (s : State) : (modCh f s).events = s.events := rfl
@[simp] theorem modCh_dirty (f : Channel → Channel) (s : State) : (modCh f s).dirty = s.dirty := rfl
@[simp] theorem modCh_sysBus (f : Channel → Channel) (s : State) : (modCh f s).sysBus = s.sysBus := rfl
@[simp] theorem modCh_irqOut (f : Channel → Channel) (s : State) : (modCh f s).irqOut = s.irqOut := rfl
@[simp] theorem modCh_replies (f : Channel → Channel) (s : State) : (modCh f s).replies = s.replies := rfl

@[simp] theorem modSc_live (f : Subchannel → Subchannel) (s : State) : (modSc f s).live = s.live := rfl
@[simp] theorem modSc_ctl (f : Subchannel → Subchannel) (s : State) : (modSc f s).ctl = s.ctl := rfl
@[simp] theorem modSc_dev (f : Subchannel → Subchannel) (s : State) : (modSc f s).dev = s.dev := rfl
@[simp] theorem modSc_pendq (f : Subchannel → Subchannel) (s : State) : (modSc f s).pendq = s.pendq := rfl
@[simp] theorem modSc_cfg (f : Subchannel → Subchannel) (s : State) : (modSc f s).cfg = s.cfg := rfl
@[simp] theorem modSc_tasks (f : Subchannel → Subchannel) (s : State) : (modSc f s).tasks = s.tasks := rfl
@[simp] theorem modSc_inputs (f : Subchannel → Subchannel) (s : State) : (modSc f s).inputs = s.inputs := rfl
@[simp] theorem modSc_failIn (f : Subchannel → Subchannel) (s : State) : (modSc f s).failIn = s.failIn := rfl
@[simp] theorem modSc_sysReads (f : Subchannel → Subchannel) (s : State) : (modSc f s).sysReads = s.sysReads := rfl
@[simp] theorem modSc_clockReads (f : Subchannel → Subchannel) (s : State) : (modSc f s).clockReads = s.clockReads := rfl
@[simp] theorem modSc_clockLast (f : Subchannel → Subchannel) (s : State) : (modSc f s).clockLast = s.clockLast := rfl
@[simp] theorem modSc_events (f : Subchannel → Subchannel) (s : State) : (modSc f s).events = s.events := rfl
@[simp] theorem modSc_dirty (f : Subchannel → Subchannel) (s : State) : (modSc f s).dirty = s.dirty := rfl
@[simp] theorem modSc_sysBus (f : Subchannel → Subchannel) (s : State) : (modSc f s).sysBus = s.sysBus := rfl
@[simp] theorem modSc_irqOut (f : Subchannel → Subchannel) (s : State) : (modSc f s).irqOut = s.irqOut := rfl
@[simp] theorem modSc_replies (f : Subchannel → Subchannel) (s : State) : (modSc f s).replies = s.replies := rfl

@[simp] theorem modIfc_live (f : IfcState → IfcState) (s : State) : (modIfc f s).live = s.live := rfl
@[simp] theorem modIfc_ctl (f : IfcState → IfcState) (s : State) : (modIfc f s).ctl = s.ctl := rfl
@[simp] theorem modIfc_dev (f : IfcState → IfcState) (s : State) : (modIfc f s).dev = s.dev := rfl
@[simp] theorem modIfc_pendq (f : IfcState → IfcState) (s : State) : (modIfc f s).pendq = s.pendq := rfl
@[simp] theorem modIfc_cfg (f : IfcState → IfcState) (s : State) : (modIfc f s).cfg = s.cfg := rfl
@[simp] theorem modIfc_tasks (f : IfcState → IfcState) (s : State) : (modIfc f s).tasks = s.tasks := rfl
@[simp] theorem modIfc_inputs (f : IfcState → IfcState) (s : State) : (modIfc f s).inputs = s.inputs := rfl
@[simp] theorem modIfc_failIn (f : IfcState → IfcState) (s : State) : (modIfc f s).failIn = s.failIn := rfl
@[simp] theorem modIfc_sysReads (f : IfcState → IfcState) (s : State) : (modIfc f s).sysReads = s.sysReads := rfl
@[simp] theorem modIfc_clockReads (f : IfcState → IfcState) (s : State) : (modIfc f s).clockReads = s.clockReads := rfl
@[simp] theorem modIfc_clockLast (f : IfcState → IfcState) (s : State) : (modIfc f s).clockLast = s.clockLast := rfl
@[simp] theorem modIfc_events (f : IfcState → IfcState) (s : State) : (modIfc f s).events = s.events := rfl
@[simp] theorem modIfc_dirty (f : IfcState → IfcState) (s : State) : (modIfc f s).dirty = s.dirty := rfl
@[simp] theorem modIfc_sysBus (f : IfcState → IfcState) (s : State) : (modIfc f s).sysBus = s.sysBus := rfl
@[simp] theorem modIfc_irqOut (f : IfcState → IfcState) (s : State) : (modIfc f s).irqOut = s.irqOut := rfl
@[simp] theorem modIfc_replies (f : IfcState → IfcState) (s : State) : (modIfc f s).replies = s.replies := rfl

@[simp] theorem logEvent_live (e : Event) (s : State) : (logEvent e s).live = s.live := rfl
@[simp] theorem logEvent_ctl (e : Event) (s : State) : (logEvent e s).ctl = s.ctl := rfl
@[simp] theorem logEvent_chans (e : Event) (s : State) : (logEvent e s).chans = s.chans := rfl
@[simp] theorem logEvent_dev (e : Event) (s : State) : (logEvent e s).dev = s.dev := rfl
@[simp] theorem logEvent_pendq (e : Event) (s : State) : (logEvent e s).pendq = s.pendq := rfl
@[simp] theorem logEvent_cfg (e : Event) (s : State) : (logEvent e s).cfg = s.cfg := rfl
@[simp] theorem logEvent_tasks (e : Event) (s : State) : (logEvent e s).tasks = s.tasks := rfl
@[simp] theorem logEvent_inputs (e : Event) (s : State) : (logEvent e s).inputs = s.inputs := rfl
@[simp] theorem logEvent_failIn (e : Event) (s : State) : (logEvent e s).failIn = s.failIn := rfl
@[simp] theorem logEvent_sysReads (e : Event) (s : State) : (logEvent e s).sysReads = s.sysReads := rfl
@[simp] theorem logEvent_clockReads (e : Event) (s : State) : (logEvent e s).clockReads = s.clockReads := rfl
@[simp] theorem logEvent_clockLast (e : Event) (s : State) : (logEvent e s).clockLast = s.clockLast := rfl
@[simp] theorem logEvent_events (e : Event) (s : State) : (logEvent e s).events = s.events ++ [e] := rfl
@[simp] theorem logEvent_dirty (e : Event) (s : State) : (logEvent e s).dirty = s.dirty := rfl
@[simp] theorem logEvent_sysBus (e : Event) (s : State) : (logEvent e s).sysBus = s.sysBus := rfl
@[simp] theorem logEvent_irqOut (e : Event) (s : State) : (logEvent e s).irqOut = s.irqOut := rfl
@[simp] theorem logEvent_replies (e : Event) (s : State) : (logEvent e s).replies = s.replies := rfl

@[simp] theorem markDirty_live (r : DirtyRec) (s : State) : (markDirty r s).live = s.live := rfl
@[simp] theorem markDirty_ctl (r : DirtyRec) (s : State) : (markDirty r s).ctl = s.ctl := rfl
@[simp] theorem markDirty_chans (r : DirtyRec) (s : State) : (markDirty r s).chans = s.chans := rfl
@[simp] theorem markDirty_dev (r : DirtyRec) (s : State) : (markDirty r s).dev = s.dev := rfl
@[simp] theorem markDirty_pendq (r : DirtyRec) (s : State) : (markDirty r s).pendq = s.pendq := rfl
@[simp] theorem markDirty_cfg (r : DirtyRec) (s : State) : (markDirty r s).cfg = s.cfg := rfl
@[simp] theorem markDirty_tasks (r : DirtyRec) (s : State) : (markDirty r s).tasks = s.tasks := rfl
@[simp] theorem markDirty_inputs (r : DirtyRec) (s : State) : (markDirty r s).inputs = s.inputs := rfl
@[simp] theorem markDirty_failIn (r : DirtyRec) (s : State) : (markDirty r s).failIn = s.failIn := rfl
@[simp] theorem markDirty_sysReads (r : DirtyRec) (s : State) : (markDirty r s).sysReads = s.sysReads := rfl
@[simp] theorem markDirty_clockReads (r : DirtyRec) (s : State) : (markDirty r s).clockReads = s.clockReads := rfl
@[simp] theorem markDirty_clockLast (r : DirtyRec) (s : State) : (markDirty r s).clockLast = s.clockLast := rfl
@[simp] theorem markDirty_events (r : DirtyRec) (s : State) : (markDirty r s).events = s.events := rfl
@[simp] theorem markDirty_dirty (r : DirtyRec) (s : State) : (markDirty r s).dirty = s.dirty ++ [r] := rfl
@[simp] theorem markDirty_sysBus (r : DirtyRec) (s : State) : (markDirty r s).sysBus = s.sysBus := rfl
@[simp] theorem markDirty_irqOut (r : DirtyRec) (s : State) : (markDirty r s).irqOut = s.irqOut := rfl
@[simp] theorem markDirty_replies (r : DirtyRec) (s : State) : (markDirty r s).replies = s.replies := rfl

@[simp] theorem sysWrite_live (a : Word) (n : Nat) (v : Word) (s : State) : (sysWrite a n v s).live = s.live := rfl
@[simp] theorem sysWrite_ctl (a : Word) (n : Nat) (v : Word) (s : State) : (sysWrite a n v s).ctl = s.ctl := rfl
@[simp] theorem sysWrite_chans (a : Word) (n : Nat) (v : Word) (s : State) : (sysWrite a n v s).chans = s.chans := rfl
@[simp] theorem sysWrite_dev (a : Word) (n : Nat) (v : Word) (s : State) : (sysWrite a n v s).dev = s.dev := rfl
@[simp] theorem sysWrite_pendq (a : Word) (n : Nat) (v : Word) (s : State) : (sysWrite a n v s).pendq = s.pendq := rfl
@[simp] theorem sysWrite_cfg (a : Word) (n : Nat) (v : Word) (s : State) : (sysWrite a n v s).cfg = s.cfg := rfl
@[simp] theorem sysWrite_tasks (a : Word) (n : Nat) (v : Word) (s : State) : (sysWrite a n v s).tasks = s.tasks := rfl
@[simp] theorem sysWrite_inputs (a : Word) (n : Nat) (v : Word) (s : State) : (sysWrite a n v s).inputs = s.inputs := rfl
@[simp] theorem sysWrite_failIn (a : Word) (n : Nat) (v : Word) (s : State) : (sysWrite a n v s).failIn = s.failIn := rfl
@[simp] theorem sysWrite_sysReads (a : Word) (n : Nat) (v : Word) (s : State) : (sysWrite a n v s).sysReads = s.sysReads := rfl
@[simp] theorem sysWrite_clockReads (a : Word) (n : Nat) (v : Word) (s : State) : (sysWrite a n v s).clockReads = s.clockReads := rfl
@[simp] theorem sysWrite_clockLast (a : Word) (n : Nat) (v : Word) (s : State) : (sysWrite a n v s).clockLast = s.clockLast := rfl
@[simp] theorem sysWrite_events (a : Word) (n : Nat) (v : Word) (s : State) : (sysWrite a n v s).events = s.events := rfl
@[simp] theorem sysWrite_dirty (a : Word) (n : Nat) (v : Word) (s : State) : (sysWrite a n v s).dirty = s.dirty := rfl
@[simp] theorem sysWrite_sysBus (a : Word) (n : Nat) (v : Word) (s : State) : (sysWrite a n v s).sysBus = s.sysBus ++ [.write a n (v &&& byteMask n)] := rfl
@[simp] theorem sysWrite_irqOut (a : Word) (n : Nat) (v : Word) (s : State) : (sysWrite a n v s).irqOut = s.irqOut := rfl
@[simp] theorem sysWrite_replies (a : Word) (n : Nat) (v : Word) (s : State) : (sysWrite a n v s).replies = s.replies := rfl

@[simp] theorem updateIrq_live (s : State) : (updateIrq s).live = s.live := rfl
@[simp] theorem updateIrq_ctl (s : State) : (updateIrq s).ctl = s.ctl := rfl
@[simp] theorem updateIrq_chans (s : State) : (updateIrq s).chans = s.chans := rfl
@[simp] theorem updateIrq_dev (s : State) : (updateIrq s).dev = s.dev := rfl
@[simp] theorem updateIrq_pendq (s : State) : (updateIrq s).pendq = s.pendq := rfl
@[simp] theorem updateIrq_cfg (s : State) : (updateIrq s).cfg = s.cfg := rfl
@[simp] theorem updateIrq_tasks (s : State) : (updateIrq s).tasks = s.tasks := rfl
@[simp] theorem updateIrq_inputs (s : State) : (updateIrq s).inputs = s.inputs := rfl
@[simp] theorem updateIrq_failIn (s : State) : (updateIrq s).failIn = s.failIn := rfl
@[simp] theorem updateIrq_sysReads (s : State) : (updateIrq s).sysReads = s.sysReads := rfl
@[simp] theorem updateIrq_clockReads (s : State) : (updateIrq s).clockReads = s.clockReads := rfl
@[simp] theorem updateIrq_clockLast (s : State) : (updateIrq s).clockLast = s.clockLast := rfl
@[simp] theorem updateIrq_events (s : State) : (updateIrq s).events = s.events := rfl
@[simp] theorem updateIrq_dirty (s : State) : (updateIrq s).dirty = s.dirty := rfl
@[simp] theorem updateIrq_sysBus (s : State) : (updateIrq s).sysBus = s.sysBus := rfl
@[simp] theorem updateIrq_irqOut (s : State) : (updateIrq s).irqOut = s.irqOut ++ [irqLine s.cfg.bits s.ctl] := rfl
@[simp] theorem updateIrq_replies (s : State) : (updateIrq s).replies = s.replies := rfl

@[simp] theorem reply_live (r : Reply) (s : State) : (reply r s).live = s.live := rfl
@[simp] theorem reply_ctl (r : Reply) (s : State) : (reply r s).ctl = s.ctl := rfl
@[simp] theorem reply_chans (r : Reply) (s : State) : (reply r s).chans = s.chans := rfl
@[simp] theorem reply_dev (r : Reply) (s : State) : (reply r s).dev = s.dev := rfl
@[simp] theorem reply_pendq (r : Reply) (s : State) : (reply r s).pendq = s.pendq := rfl
@[simp] theorem reply_cfg (r : Reply) (s : State) : (reply r s).cfg = s.cfg := rfl
@[simp] theorem reply_tasks (r : Reply) (s : State) : (reply r s).tasks = s.tasks := rfl
@[simp] theorem reply_inputs (r : Reply) (s : State) : (reply r s).inputs = s.inputs := rfl
@[simp] theorem reply_failIn (r : Reply) (s : State) : (reply r s).failIn = s.failIn := rfl
@[simp] theorem reply_sysReads (r : Reply) (s : State) : (reply r s).sysReads = s.sysReads := rfl
@[simp] theorem reply_clockReads (r : Reply) (s : State) : (reply r s).clockReads = s.clockReads := rfl
@[simp] theorem reply_clockLast (r : Reply) (s : State) : (reply r s).clockLast = s.clockLast := rfl
@[simp] theorem reply_events (r : Reply) (s : State) : (reply r s).events = s.events := rfl
@[simp] theorem reply_dirty (r : Reply) (s : State) : (reply r s).dirty = s.dirty := rfl
@[simp] theorem reply_sysBus (r : Reply) (s : State) : (reply r s).sysBus = s.sysBus := rfl
@[simp] theorem reply_irqOut (r : Reply) (s : State) : (reply r s).irqOut = s.irqOut := rfl
@[simp] theorem reply_replies (r : Reply) (s : State) : (reply r s).replies = s.replies ++ [r] := rfl

@[simp] theorem startDrain_live (s : State) : (startDrain s).live = s.live := rfl
@[simp] theorem startDrain_ctl (s : State) : (startDrain s).ctl = s.ctl := rfl
@[simp] theorem startDrain_chans (s : State) : (startDrain s).chans = s.chans := rfl
@[simp] theorem startDrain_dev (s : State) : (startDrain s).dev = s.dev := rfl
@[simp] theorem startDrain_pendq (s : State) : (startDrain s).pendq = s.pendq := rfl
@[simp] theorem startDrain_cfg (s : State) : (startDrain s).cfg = s.cfg := rfl
@[simp] theorem startDrain_tasks (s : State) : (startDrain s).tasks = .drain :: s.tasks := rfl
@[simp] theorem startDrain_inputs (s : State) : (startDrain s).inputs = s.inputs := rfl
@[simp] theorem startDrain_failIn (s : State) : (startDrain s).failIn = s.failIn := rfl
@[simp] theorem startDrain_sysReads (s : State) : (startDrain s).sysReads = s.sysReads := rfl
@[simp] theorem startDrain_clockReads (s : State) : (startDrain s).clockReads = s.clockReads := rfl
@[simp] theorem startDrain_clockLast (s : State) : (startDrain s).clockLast = s.clockLast := rfl
@[simp] theorem startDrain_events (s : State) : (startDrain s).events = s.events := rfl
@[simp] theorem startDrain_dirty (s : State) : (startDrain s).dirty = s.dirty := rfl
@[simp] theorem startDrain_sysBus (s : State) : (startDrain s).sysBus = s.sysBus := rfl
@[simp] theorem startDrain_irqOut (s : State) : (startDrain s).irqOut = s.irqOut := rfl
@[simp] theorem startDrain_replies (s : State) : (startDrain s).replies = s.replies := rfl

@[simp] theorem endDrain_live (s : State) : (endDrain s).live = s.live := rfl
@[simp] theorem endDrain_ctl (s : State) : (endDrain s).ctl = s.ctl := rfl
@[simp] theorem endDrain_chans (s : State) : (endDrain s).chans = s.chans := rfl
@[simp] theorem endDrain_dev (s : State) : (endDrain s).dev = s.dev := rfl
@[simp] theorem endDrain_pendq (s : State) : (endDrain s).pendq = s.pendq := rfl
@[simp] theorem endDrain_cfg (s : State) : (endDrain s).cfg = s.cfg := rfl
@[simp] theorem endDrain_inputs (s : State) : (endDrain s).inputs = s.inputs := rfl
@[simp] theorem endDrain_failIn (s : State) : (endDrain s).failIn = s.failIn := rfl
@[simp] theorem endDrain_sysReads (s : State) : (endDrain s).sysReads = s.sysReads := rfl
@[simp] theorem endDrain_clockReads (s : State) : (endDrain s).clockReads = s.clockReads := rfl
@[simp] theorem endDrain_clockLast (s : State) : (endDrain s).clockLast = s.clockLast := rfl
@[simp] theorem endDrain_events (s : State) : (endDrain s).events = s.events := rfl
@[simp] theorem endDrain_dirty (s : State) : (endDrain s).dirty = s.dirty := rfl
@[simp] theorem endDrain_sysBus (s : State) : (endDrain s).sysBus = s.sysBus := rfl
@[simp] theorem endDrain_irqOut (s : State) : (endDrain s).irqOut = s.irqOut := rfl
@[simp] theorem endDrain_replies (s : State) : (endDrain s).replies = s.replies := rfl

@[simp] theorem advanceGet_live (s : State) : (advanceGet s).live = { s.live with get := s.live.get + 4 } := rfl
@[simp] theorem advanceGet_ctl (s : State) : (advanceGet s).ctl = s.ctl := rfl
@[simp] theorem advanceGet_chans (s : State) : (advanceGet s).chans = s.chans := rfl
@[simp] theorem advanceGet_dev (s : State) : (advanceGet s).dev = s.dev := rfl
@[simp] theorem advanceGet_pendq (s : State) : (advanceGet s).pendq = s.pendq := rfl
@[simp] theorem advanceGet_cfg (s : State) : (advanceGet s).cfg = s.cfg := rfl
@[simp] theorem advanceGet_tasks (s : State) : (advanceGet s).tasks = s.tasks := rfl
@[simp] theorem advanceGet_inputs (s : State) : (advanceGet s).inputs = s.inputs := rfl
@[simp] theorem advanceGet_failIn (s : State) : (advanceGet s).failIn = s.failIn := rfl
@[simp] theorem advanceGet_sysReads (s : State) : (advanceGet s).sysReads = s.sysReads := rfl
@[simp] theorem advanceGet_clockReads (s : State) : (advanceGet s).clockReads = s.clockReads := rfl
@[simp] theorem advanceGet_clockLast (s : State) : (advanceGet s).clockLast = s.clockLast := rfl
@[simp] theorem advanceGet_events (s : State) : (advanceGet s).events = s.events := rfl
@[simp] theorem advanceGet_dirty (s : State) : (advanceGet s).dirty = s.dirty := rfl
@[simp] theorem advanceGet_sysBus (s : State) : (advanceGet s).sysBus = s.sysBus := rfl
@[simp] theorem advanceGet_irqOut (s : State) : (advanceGet s).irqOut = s.irqOut := rfl
@[simp] theorem advanceGet_replies (s : State) : (advanceGet s).replies = s.replies := rfl

@[simp] theorem setGet_live (target : Word) (s : State) : (setGet target s).live = { s.live with get := target } := rfl
@[simp] theorem setGet_ctl (target : Word) (s : State) : (setGet target s).ctl = s.ctl := rfl
@[simp] theorem setGet_chans (target : Word) (s : State) : (setGet target s).chans = s.chans := rfl
@[simp] theorem setGet_dev (target : Word) (s : State) : (setGet target s).dev = s.dev := rfl
@[simp] theorem setGet_pendq (target : Word) (s : State) : (setGet target s).pendq = s.pendq := rfl
@[simp] theorem setGet_cfg (target : Word) (s : State) : (setGet target s).cfg = s.cfg := rfl
@[simp] theorem setGet_tasks (target : Word) (s : State) : (setGet target s).tasks = s.tasks := rfl
@[simp] theorem setGet_inputs (target : Word) (s : State) : (setGet target s).inputs = s.inputs := rfl
@[simp] theorem setGet_failIn (target : Word) (s : State) : (setGet target s).failIn = s.failIn := rfl
@[simp] theorem setGet_sysReads (target : Word) (s : State) : (setGet target s).sysReads = s.sysReads := rfl
@[simp] theorem setGet_clockReads (target : Word) (s : State) : (setGet target s).clockReads = s.clockReads := rfl
@[simp] theorem setGet_clockLast (target : Word) (s : State) : (setGet target s).clockLast = s.clockLast := rfl
@[simp] theorem setGet_events (target : Word) (s : State) : (setGet target s).events = s.events := rfl
@[simp] theorem setGet_dirty (target : Word) (s : State) : (setGet target s).dirty = s.dirty := rfl
@[simp] theorem setGet_sysBus (target : Word) (s : State) : (setGet target s).sysBus = s.sysBus := rfl
@[simp] theorem setGet_irqOut (target : Word) (s : State) : (setGet target s).irqOut = s.irqOut := rfl
@[simp] theorem setGet_replies (target : Word) (s : State) : (setGet target s).replies = s.replies := rfl

@[simp] theorem clearAcquire_live (s : State) : (clearAcquire s).live = s.live := rfl
@[simp] theorem clearAcquire_ctl (s : State) : (clearAcquire s).ctl = { s.ctl with acquire := s.ctl.acquire &&& ~~~bitMask s.cfg.bits.acquire } := rfl
@[simp] theorem clearAcquire_chans (s : State) : (clearAcquire s).chans = s.chans := rfl
@[simp] theorem clearAcquire_dev (s : State) : (clearAcquire s).dev = s.dev := rfl
@[simp] theorem clearAcquire_pendq (s : State) : (clearAcquire s).pendq = s.pendq := rfl
@[simp] theorem clearAcquire_cfg (s : State) : (clearAcquire s).cfg = s.cfg := rfl
@[simp] theorem clearAcquire_tasks (s : State) : (clearAcquire s).tasks = s.tasks := rfl
@[simp] theorem clearAcquire_inputs (s : State) : (clearAcquire s).inputs = s.inputs := rfl
@[simp] theorem clearAcquire_failIn (s : State) : (clearAcquire s).failIn = s.failIn := rfl
@[simp] theorem clearAcquire_sysReads (s : State) : (clearAcquire s).sysReads = s.sysReads := rfl
@[simp] theorem clearAcquire_clockReads (s : State) : (clearAcquire s).clockReads = s.clockReads := rfl
@[simp] theorem clearAcquire_clockLast (s : State) : (clearAcquire s).clockLast = s.clockLast := rfl
@[simp] theorem clearAcquire_events (s : State) : (clearAcquire s).events = s.events := rfl
@[simp] theorem clearAcquire_dirty (s : State) : (clearAcquire s).dirty = s.dirty := rfl
@[simp] theorem clearAcquire_sysBus (s : State) : (clearAcquire s).sysBus = s.sysBus := rfl
@[simp] theorem clearAcquire_irqOut (s : State) : (clearAcquire s).irqOut = s.irqOut := rfl
@[simp] theorem clearAcquire_replies (s : State) : (clearAcquire s).replies = s.replies := rfl

@[simp] theorem raiseFifo_live (s : State) : (raiseFifo s).live = s.live := rfl
@[simp] theorem raiseFifo_ctl (s : State) : (raiseFifo s).ctl = { s.ctl with fifoIntr := s.ctl.fifoIntr ||| bitMask s.cfg.bits.fifoDeferred } := rfl
@[simp] theorem raiseFifo_chans (s : State) : (raiseFifo s).chans = s.chans := rfl
@[simp] theorem raiseFifo_dev (s : State) : (raiseFifo s).dev = s.dev := rfl
@[simp] theorem raiseFifo_pendq (s : State) : (raiseFifo s).pendq = s.pendq := rfl
@[simp] theorem raiseFifo_cfg (s : State) : (raiseFifo s).cfg = s.cfg := rfl
@[simp] theorem raiseFifo_tasks (s : State) : (raiseFifo s).tasks = s.tasks := rfl
@[simp] theorem raiseFifo_inputs (s : State) : (raiseFifo s).inputs = s.inputs := rfl
@[simp] theorem raiseFifo_failIn (s : State) : (raiseFifo s).failIn = s.failIn := rfl
@[simp] theorem raiseFifo_sysReads (s : State) : (raiseFifo s).sysReads = s.sysReads := rfl
@[simp] theorem raiseFifo_clockReads (s : State) : (raiseFifo s).clockReads = s.clockReads := rfl
@[simp] theorem raiseFifo_clockLast (s : State) : (raiseFifo s).clockLast = s.clockLast := rfl
@[simp] theorem raiseFifo_events (s : State) : (raiseFifo s).events = s.events := rfl
@[simp] theorem raiseFifo_dirty (s : State) : (raiseFifo s).dirty = s.dirty := rfl
@[simp] theorem raiseFifo_sysBus (s : State) : (raiseFifo s).sysBus = s.sysBus := rfl
@[simp] theorem raiseFifo_irqOut (s : State) : (raiseFifo s).irqOut = s.irqOut ++ [irqLine s.cfg.bits (raiseFifo s).ctl] := rfl
@[simp] theorem raiseFifo_replies (s : State) : (raiseFifo s).replies = s.replies := rfl

@[simp] theorem raiseNotify_live (s : State) : (raiseNotify s).live = s.live := rfl
@[simp] theorem raiseNotify_ctl (s : State) : (raiseNotify s).ctl = { s.ctl with grIntr := s.ctl.grIntr ||| bitMask s.cfg.bits.grNotify, grNsource := s.ctl.grNsource ||| bitMask s.cfg.bits.nsourceNotify } := rfl
@[simp] theorem raiseNotify_chans (s : State) : (raiseNotify s).chans = s.chans := rfl
@[simp] theorem raiseNotify_dev (s : State) : (raiseNotify s).dev = s.dev := rfl
@[simp] theorem raiseNotify_pendq (s : State) : (raiseNotify s).pendq = s.pendq := rfl
@[simp] theorem raiseNotify_cfg (s : State) : (raiseNotify s).cfg = s.cfg := rfl
@[simp] theorem raiseNotify_tasks (s : State) : (raiseNotify s).tasks = s.tasks := rfl
@[simp] theorem raiseNotify_inputs (s : State) : (raiseNotify s).inputs = s.inputs := rfl
@[simp] theorem raiseNotify_failIn (s : State) : (raiseNotify s).failIn = s.failIn := rfl
@[simp] theorem raiseNotify_sysReads (s : State) : (raiseNotify s).sysReads = s.sysReads := rfl
@[simp] theorem raiseNotify_clockReads (s : State) : (raiseNotify s).clockReads = s.clockReads := rfl
@[simp] theorem raiseNotify_clockLast (s : State) : (raiseNotify s).clockLast = s.clockLast := rfl
@[simp] theorem raiseNotify_events (s : State) : (raiseNotify s).events = s.events := rfl
@[simp] theorem raiseNotify_dirty (s : State) : (raiseNotify s).dirty = s.dirty := rfl
@[simp] theorem raiseNotify_sysBus (s : State) : (raiseNotify s).sysBus = s.sysBus := rfl
@[simp] theorem raiseNotify_irqOut (s : State) : (raiseNotify s).irqOut = s.irqOut ++ [irqLine s.cfg.bits (raiseNotify s).ctl] := rfl
@[simp] theorem raiseNotify_replies (s : State) : (raiseNotify s).replies = s.replies := rfl

/-! ## Writes to memory -/

@[simp] theorem devWrite_live (a : Word) (n : Nat) (v : Word) (s : State) : (devWrite a n v s).live = s.live := by rw [devWrite_frame]
@[simp] theorem devWrite_ctl (a : Word) (n : Nat) (v : Word) (s : State) : (devWrite a n v s).ctl = s.ctl := by rw [devWrite_frame]
@[simp] theorem devWrite_chans (a : Word) (n : Nat) (v : Word) (s : State) : (devWrite a n v s).chans = s.chans := by rw [devWrite_frame]
@[simp] theorem devWrite_pendq (a : Word) (n : Nat) (v : Word) (s : State) : (devWrite a n v s).pendq = s.pendq := by rw [devWrite_frame]
@[simp] theorem devWrite_cfg (a : Word) (n : Nat) (v : Word) (s : State) : (devWrite a n v s).cfg = s.cfg := by rw [devWrite_frame]
@[simp] theorem devWrite_tasks (a : Word) (n : Nat) (v : Word) (s : State) : (devWrite a n v s).tasks = s.tasks := by rw [devWrite_frame]
@[simp] theorem devWrite_inputs (a : Word) (n : Nat) (v : Word) (s : State) : (devWrite a n v s).inputs = s.inputs := by rw [devWrite_frame]
@[simp] theorem devWrite_failIn (a : Word) (n : Nat) (v : Word) (s : State) : (devWrite a n v s).failIn = s.failIn := by rw [devWrite_frame]
@[simp] theorem devWrite_sysReads (a : Word) (n : Nat) (v : Word) (s : State) : (devWrite a n v s).sysReads = s.sysReads := by rw [devWrite_frame]
@[simp] theorem devWrite_clockReads (a : Word) (n : Nat) (v : Word) (s : State) : (devWrite a n v s).clockReads = s.clockReads := by rw [devWrite_frame]
@[simp] theorem devWrite_clockLast (a : Word) (n : Nat) (v : Word) (s : State) : (devWrite a n v s).clockLast = s.clockLast := by rw [devWrite_frame]
@[simp] theorem devWrite_events (a : Word) (n : Nat) (v : Word) (s : State) : (devWrite a n v s).events = s.events := by rw [devWrite_frame]
@[simp] theorem devWrite_dirty (a : Word) (n : Nat) (v : Word) (s : State) : (devWrite a n v s).dirty = s.dirty := by rw [devWrite_frame]
@[simp] theorem devWrite_sysBus (a : Word) (n : Nat) (v : Word) (s : State) : (devWrite a n v s).sysBus = s.sysBus := by rw [devWrite_frame]
@[simp] theorem devWrite_irqOut (a : Word) (n : Nat) (v : Word) (s : State) : (devWrite a n v s).irqOut = s.irqOut := by rw [devWrite_frame]
@[simp] theorem devWrite_replies (a : Word) (n : Nat) (v : Word) (s : State) : (devWrite a n v s).replies = s.replies := by rw [devWrite_frame]

@[simp] theorem memWrite_live (sp : Space) (a : Word) (n : Nat) (v : Word) (s : State) : (memWrite sp a n v s).live = s.live := by cases sp <;> simp [memWrite]
@[simp] theorem memWrite_ctl (sp : Space) (a : Word) (n : Nat) (v : Word) (s : State) : (memWrite sp a n v s).ctl = s.ctl := by cases sp <;> simp [memWrite]
@[simp] theorem memWrite_chans (sp : Space) (a : Word) (n : Nat) (v : Word) (s : State) : (memWrite sp a n v s).chans = s.chans := by cases sp <;> simp [memWrite]
@[simp] theorem memWrite_pendq (sp : Space) (a : Word) (n : Nat) (v : Word) (s : State) : (memWrite sp a n v s).pendq = s.pendq := by cases sp <;> simp [memWrite]
@[simp] theorem memWrite_cfg (sp : Space) (a : Word) (n : Nat) (v : Word) (s : State) : (memWrite sp a n v s).cfg = s.cfg := by cases sp <;> simp [memWrite]
@[simp] theorem memWrite_tasks (sp : Space) (a : Word) (n : Nat) (v : Word) (s : State) : (memWrite sp a n v s).tasks = s.tasks := by cases sp <;> simp [memWrite]
@[simp] theorem memWrite_inputs (sp : Space) (a : Word) (n : Nat) (v : Word) (s : State) : (memWrite sp a n v s).inputs = s.inputs := by cases sp <;> simp [memWrite]
@[simp] theorem memWrite_failIn (sp : Space) (a : Word) (n : Nat) (v : Word) (s : State) : (memWrite sp a n v s).failIn = s.failIn := by cases sp <;> simp [memWrite]
@[simp] theorem memWrite_sysReads (sp : Space) (a : Word) (n : Nat) (v : Word) (s : State) : (memWrite sp a n v s).sysReads = s.sysReads := by cases sp <;> simp [memWrite]
@[simp] theorem memWrite_clockReads (sp : Space) (a : Word) (n : Nat) (v : Word) (s : State) : (memWrite sp a n v s).clockReads = s.clockReads := by cases sp <;> simp [memWrite]
@[simp] theorem memWrite_clockLast (sp : Space) (a : Word) (n : Nat) (v : Word) (s : State) : (memWrite sp a n v s).clockLast = s.clockLast := by cases sp <;> simp [memWrite]
@[simp] theorem memWrite_events (sp : Space) (a : Word) (n : Nat) (v : Word) (s : State) : (memWrite sp a n v s).events = s.events := by cases sp <;> simp [memWrite]
@[simp] theorem memWrite_dirty (sp : Space) (a : Word) (n : Nat) (v : Word) (s : State) : (memWrite sp a n v s).dirty = s.dirty := by cases sp <;> simp [memWrite]
@[simp] theorem memWrite_irqOut (sp : Space) (a : Word) (n : Nat) (v : Word) (s : State) : (memWrite sp a n v s).irqOut = s.irqOut := by cases sp <;> simp [memWrite]
@[simp] theorem memWrite_replies (sp : Space) (a : Word) (n : Nat) (v : Word) (s : State) : (memWrite sp a n v s).replies = s.replies := by cases sp <;> simp [memWrite]

@[simp] theorem dmaWrite_live (obj off : Word) (n : Nat) (v : Word) (s : State) : (dmaWrite obj off n v s).live = s.live := by simp [dmaWrite]
@[simp] theorem dmaWrite_ctl (obj off : Word) (n : Nat) (v : Word) (s : State) : (dmaWrite obj off n v s).ctl = s.ctl := by simp [dmaWrite]
@[simp] theorem dmaWrite_chans (obj off : Word) (n : Nat) (v : Word) (s : State) : (dmaWrite obj off n v s).chans = s.chans := by simp [dmaWrite]
@[simp] theorem dmaWrite_pendq (obj off : Word) (n : Nat) (v : Word) (s : State) : (dmaWrite obj off n v s).pendq = s.pendq := by simp [dmaWrite]
@[simp] theorem dmaWrite_cfg (obj off : Word) (n : Nat) (v : Word) (s : State) : (dmaWrite obj off n v s).cfg = s.cfg := by simp [dmaWrite]
@[simp] theorem dmaWrite_tasks (obj off : Word) (n : Nat) (v : Word) (s : State) : (dmaWrite obj off n v s).tasks = s.tasks := by simp [dmaWrite]
@[simp] theorem dmaWrite_inputs (obj off : Word) (n : Nat) (v : Word) (s : State) : (dmaWrite obj off n v s).inputs = s.inputs := by simp [dmaWrite]
@[simp] theorem dmaWrite_failIn (obj off : Word) (n : Nat) (v : Word) (s : State) : (dmaWrite obj off n v s).failIn = s.failIn := by simp [dmaWrite]
@[simp] theorem dmaWrite_sysReads (obj off : Word) (n : Nat) (v : Word) (s : State) : (dmaWrite obj off n v s).sysReads = s.sysReads := by simp [dmaWrite]
@[simp] theorem dmaWrite_clockReads (obj off : Word) (n : Nat) (v : Word) (s : State) : (dmaWrite obj off n v s).clockReads = s.clockReads := by simp [dmaWrite]
@[simp] theorem dmaWrite_clockLast (obj off : Word) (n : Nat) (v : Word) (s : State) : (dmaWrite obj off n v s).clockLast = s.clockLast := by simp [dmaWrite]
@[simp] theorem dmaWrite_events (obj off : Word) (n : Nat) (v : Word) (s : State) : (dmaWrite obj off n v s).events = s.events := by simp [dmaWrite]
@[simp] theorem dmaWrite_dirty (obj off : Word) (n : Nat) (v : Word) (s : State) : (dmaWrite obj off n v s).dirty = s.dirty := by simp [dmaWrite]
@[simp] theorem dmaWrite_irqOut (obj off : Word) (n : Nat) (v : Word) (s : State) : (dmaWrite obj off n v s).irqOut = s.irqOut := by simp [dmaWrite]
@[simp] theorem dmaWrite_replies (obj off : Word) (n : Nat) (v : Word) (s : State) : (dmaWrite obj off n v s).replies = s.replies := by simp [dmaWrite]

@[simp] theorem putPixel_live (x y : Nat) (v : Word) (s : State) : (putPixel x y v s).live = s.live := by simp [putPixel]
@[simp] theorem putPixel_ctl (x y : Nat) (v : Word) (s : State) : (putPixel x y v s).ctl = s.ctl := by simp [putPixel]
@[simp] theorem putPixel_chans (x y : Nat) (v : Word) (s : State) : (putPixel x y v s).chans = s.chans := by simp [putPixel]
@[simp] theorem putPixel_pendq (x y : Nat) (v : Word) (s : State) : (putPixel x y v s).pendq = s.pendq := by simp [putPixel]
@[simp] theorem putPixel_cfg (x y : Nat) (v : Word) (s : State) : (putPixel x y v s).cfg = s.cfg := by simp [putPixel]
@[simp] theorem putPixel_tasks (x y : Nat) (v : Word) (s : State) : (putPixel x y v s).tasks = s.tasks := by simp [putPixel]
@[simp] theorem putPixel_inputs (x y : Nat) (v : Word) (s : State) : (putPixel x y v s).inputs = s.inputs := by simp [putPixel]
@[simp] theorem putPixel_failIn (x y : Nat) (v : Word) (s : State) : (putPixel x y v s).failIn = s.failIn := by simp [putPixel]
@[simp] theorem putPixel_sysReads (x y : Nat) (v : Word) (s : State) : (putPixel x y v s).sysReads = s.sysReads := by simp [putPixel]
@[simp] theorem putPixel_clockReads (x y : Nat) (v : Word) (s : State) : (putPixel x y v s).clockReads = s.clockReads := by simp [putPixel]
@[simp] theorem putPixel_clockLast (x y : Nat) (v : Word) (s : State) : (putPixel x y v s).clockLast = s.clockLast := by simp [putPixel]
@[simp] theorem putPixel_events (x y : Nat) (v : Word) (s : State) : (putPixel x y v s).events = s.events := by simp [putPixel]
@[simp] theorem putPixel_dirty (x y : Nat) (v : Word) (s : State) : (putPixel x y v s).dirty = s.dirty := by simp [putPixel]
@[simp] theorem putPixel_irqOut (x y : Nat) (v : Word) (s : State) : (putPixel x y v s).irqOut = s.irqOut := by simp [putPixel]
@[simp] theorem putPixel_replies (x y : Nat) (v : Word) (s : State) : (putPixel x y v s).replies = s.replies := by simp [putPixel]

@[simp] theorem linkStore_live (obj n : Word) (s : State) : (linkStore obj n s).live = s.live := by simp [linkStore]
@[simp] theorem linkStore_ctl (obj n : Word) (s : State) : (linkStore obj n s).ctl = s.ctl := by simp [linkStore]
@[simp] theorem linkStore_chans (obj n : Word) (s : State) : (linkStore obj n s).chans = s.chans := by simp [linkStore]
@[simp] theorem linkStore_pendq (obj n : Word) (s : State) : (linkStore obj n s).pendq = s.pendq := by simp [linkStore]
@[simp] theorem linkStore_cfg (obj n : Word) (s : State) : (linkStore obj n s).cfg = s.cfg := by simp [linkStore]
@[simp] theorem linkStore_tasks (obj n : Word) (s : State) : (linkStore obj n s).tasks = s.tasks := by simp [linkStore]
@[simp] theorem linkStore_inputs (obj n : Word) (s : State) : (linkStore obj n s).inputs = s.inputs := by simp [linkStore]
@[simp] theorem linkStore_failIn (obj n : Word) (s : State) : (linkStore obj n s).failIn = s.failIn := by simp [linkStore]
@[simp] theorem linkStore_sysReads (obj n : Word) (s : State) : (linkStore obj n s).sysReads = s.sysReads := by simp [linkStore]
@[simp] theorem linkStore_clockReads (obj n : Word) (s : State) : (linkStore obj n s).clockReads = s.clockReads := by simp [linkStore]
@[simp] theorem linkStore_clockLast (obj n : Word) (s : State) : (linkStore obj n s).clockLast = s.clockLast := by simp [linkStore]
@[simp] theorem linkStore_events (obj n : Word) (s : State) : (linkStore obj n s).events = s.events := by simp [linkStore]
@[simp] theorem linkStore_dirty (obj n : Word) (s : State) : (linkStore obj n s).dirty = s.dirty := by simp [linkStore]
@[simp] theorem linkStore_sysBus (obj n : Word) (s : State) : (linkStore obj n s).sysBus = s.sysBus := by simp [linkStore]
@[simp] theorem linkStore_irqOut (obj n : Word) (s : State) : (linkStore obj n s).irqOut = s.irqOut := by simp [linkStore]
@[simp] theorem linkStore_replies (obj n : Word) (s : State) : (linkStore obj n s).replies = s.replies := by simp [linkStore]

end Sys2Proof.Machine
end

