-- ==== Sys2Proof/Laws/Channels.lean ====
section
/-! SUPPORT. Channel records, and what the shared operations around one parameter word can do. -/
namespace Sys2Proof.Machine

open Sys2Proof

/-! ## Channel records -/

theorem chan_setChan (s : State) (c d : ChanId) (x : Channel) :
    (s.setChan c x).chan d = if c = d then x else s.chan d := by
  simp only [State.chan, State.setChan, Vector.getElem_set]
  by_cases h : c = d
  · subst h; simp
  · have : c.toNat ≠ d.toNat := fun e => h (BitVec.eq_of_toNat_eq e)
    simp [h, this]

@[simp] theorem chan_setChan_same (s : State) (c : ChanId) (x : Channel) : (s.setChan c x).chan c = x := by
  simp [chan_setChan]

@[simp] theorem cur_setChan (s : State) (c : ChanId) (x : Channel) : (s.setChan c x).cur = s.cur := rfl

@[simp] theorem cur_modCh (f : Channel → Channel) (s : State) : (modCh f s).cur = s.cur := rfl

/-- Changing the current record changes it by the function. -/
@[simp] theorem ch_modCh (f : Channel → Channel) (s : State) : (modCh f s).ch = f s.ch := by
  simp [State.ch, modCh]

/-- Changing the current record leaves every other record. -/
theorem chan_modCh_other (f : Channel → Channel) (s : State) {c : ChanId} (h : c ≠ s.cur) :
    (modCh f s).chan c = s.chan c := by
  simp [modCh, chan_setChan, Ne.symm h]

theorem setChan_setChan (s : State) (c : ChanId) (x y : Channel) : (s.setChan c x).setChan c y = s.setChan c y := by
  simp [State.setChan, Vector.set_set]

/-- Two changes of the current record are one. -/
theorem modCh_modCh (f g : Channel → Channel) (s : State) : modCh g (modCh f s) = modCh (fun x => g (f x)) s := by
  simp only [modCh, cur_setChan, setChan_setChan]
  rw [show (s.setChan s.cur (f s.ch)).ch = f s.ch from ch_modCh f s]

theorem modCh_congr {f g : Channel → Channel} {s : State} (h : f s.ch = g s.ch) : modCh f s = modCh g s := by
  simp only [modCh, h]

theorem modCh_id (s : State) : modCh (fun x => x) s = s := by
  simp [modCh, State.setChan, State.ch, State.chan]

@[simp] theorem subAt_setSub (x : Channel) (k : SubId) (y : Subchannel) : (x.setSub k y).subAt k = y := by
  simp [Channel.subAt, Channel.setSub]

@[simp] theorem setSub_setSub (x : Channel) (k : SubId) (y z : Subchannel) :
    (x.setSub k y).setSub k z = x.setSub k z := by simp [Channel.setSub, Vector.set_set]

@[simp] theorem setSub_subAt (x : Channel) (k : SubId) : x.setSub k (x.subAt k) = x := by
  simp [Channel.setSub, Channel.subAt]

@[simp] theorem modSc_sc (f : Subchannel → Subchannel) (s : State) : (modSc f s).sc = f s.sc := by
  simp only [State.sc, modSc, ch_modCh]
  show ((s.ch.setSub s.ch.subc (f (s.ch.subAt s.ch.subc))).subAt s.ch.subc) = _
  simp

/-- The current record of a state with the same current channel and records. -/
theorem ch_congr {s t : State} (hc : t.ctl.curchan = s.ctl.curchan) (hs : t.chans = s.chans) : t.ch = s.ch := by
  simp only [State.ch, State.chan, State.cur, hc, hs]

/-! ## What the writes can do -/

/-- A `DmaWrite` changes device memory or makes a request, and nothing else. -/
theorem dmaWrite_frame (obj off : Word) (n : Nat) (v : Word) (s : State) :
    dmaWrite obj off n v s
      = { s with dev := (dmaWrite obj off n v s).dev, sysBus := (dmaWrite obj off n v s).sysBus } := by
  unfold dmaWrite memWrite
  split
  · rw [devWrite_frame]
  · rfl

theorem dmaWrite_dev_target {s : State} {obj off : Word} (h : (dmaXlate s obj off).1 = .dev) (n : Nat) (v : Word) :
    dmaWrite obj off n v s = devWrite (dmaXlate s obj off).2 n v s := by simp [dmaWrite, memWrite, h]

theorem dmaWrite_sys_target {s : State} {obj off : Word} (h : (dmaXlate s obj off).1 = .sys) (n : Nat) (v : Word) :
    dmaWrite obj off n v s = sysWrite (dmaXlate s obj off).2 n v s := by simp [dmaWrite, memWrite, h]

/-- A `DmaRead` counts a system read and makes a request, or changes nothing. -/
theorem dmaRead_frame (obj off : Word) (n : Nat) (s : State) :
    (dmaRead obj off n s).2
      = { s with sysReads := (dmaRead obj off n s).2.sysReads, sysBus := (dmaRead obj off n s).2.sysBus } := by
  unfold dmaRead memRead
  split <;> rfl

theorem dmaRead_dev_target {s : State} {obj off : Word} (h : (dmaXlate s obj off).1 = .dev) (n : Nat) :
    dmaRead obj off n s = (devRead s (dmaXlate s obj off).2 n, s) := by simp [dmaRead, memRead, h]

theorem linkStore_frame (obj n : Word) (s : State) :
    linkStore obj n s = { s with dev := (linkStore obj n s).dev } := by
  unfold linkStore; rw [devWrite_frame]

/-- What a handle re-resolution does: it may log a failed lookup. -/
theorem resolve_frame (m p : Word) (s : State) :
    (resolve m p s).2 = { s with events := (resolve m p s).2.events } := by
  unfold resolve hashLookup
  split
  · split <;> split at * <;> simp_all [logEvent] <;> (rename_i h; obtain ⟨-, rfl⟩ := h; rfl)
  · rfl

/-- Outside the handle range a parameter is handed on as it is. -/
theorem resolve_other {m : Word} {s : State} (h : s.cfg.mthds.takesHandle m = false) (p : Word) :
    resolve m p s = (p, s) := by simp [resolve, h]

/-- What a lookup gives depends on device memory, the table registers and the parameters only. -/
theorem hashProbe_congr {s t : State} (hd : t.dev = s.dev) (hc : t.cfg = s.cfg) (hr : t.ctl.ramht = s.ctl.ramht)
    (h : Word) (c : ChanId) (n it : Nat) : hashProbe t h c n it = hashProbe s h c n it := by
  have hb : htBase t = htBase s := by simp [htBase, hr, hc]
  have hbits : htBits t = htBits s := by simp [htBits, hr, hc]
  have hrd : ∀ a n, devRead t a n = devRead s a n := fun a n => by simp [devRead, hd, hc]
  induction n generalizing it with
  | zero => rfl
  | succ n ih => simp only [hashProbe, hb, hbits, hrd, hc, ih]

theorem hashFind_congr {s t : State} (hd : t.dev = s.dev) (hc : t.cfg = s.cfg) (hr : t.ctl.ramht = s.ctl.ramht)
    (h : Word) (c : ChanId) : hashFind t h c = hashFind s h c := by
  have hbits : htBits t = htBits s := by simp [htBits, hr, hc]
  simp only [hashFind, hbits, hashProbe_congr hd hc hr]

/-! ## A parameter word -/

theorem paramWord_no {s : State} (h : s.failNext = .no) (p : Word) (e : State → State) :
    paramWord p e s = advanceParam (e { s with failIn := s.failIn.tail }) := by simp [paramWord, h]

theorem paramWord_before {s : State} (h : s.failNext = .before) (p : Word) (e : State → State) :
    paramWord p e s = dispatchFailed p { s with failIn := s.failIn.tail } := by simp [paramWord, h]

theorem paramWord_after {s : State} (h : s.failNext = .after) (p : Word) (e : State → State) :
    paramWord p e s = dispatchFailed p (e { s with failIn := s.failIn.tail }) := by simp [paramWord, h]

/-! ## The notification step -/

theorem notifyComplete_unarmed {s : State} (h : s.ch.notifyArmed = false) : notifyComplete s = s := by
  simp [notifyComplete, h]

/-- A class method with no notification armed is its handler on the re-resolved parameter. -/
theorem classMethod_unarmed {m p : Word} {h : Word → State → State} {s : State}
    (hu : (h (resolve m p s).1 (resolve m p s).2).ch.notifyArmed = false) :
    classMethod m p h s = h (resolve m p s).1 (resolve m p s).2 := by
  rw [classMethod, notifyComplete_unarmed hu]

end Sys2Proof.Machine
end

