-- ==== Sys2Proof/Laws/Effects.lean ====
section
/-! SUPPORT. Everything the effects of one dispatch can do, said once: `Effects s t`. Every method is such effects; what
holds of them all follows by one induction. -/
namespace Sys2Proof.Machine

open Sys2Proof

/-- A change of a channel record that leaves the parser's registers (R37 to R40). -/
def KeepsParser (f : Channel → Channel) : Prop :=
  ∀ x, (f x).remaining = x.remaining ∧ (f x).subc = x.subc ∧ (f x).mthd = x.mthd ∧ (f x).ni = x.ni
    ∧ (f x).subActive = x.subActive ∧ (f x).subReturn = x.subReturn

/-- What a dispatch can do to the machine, step by step. -/
inductive Effects : State → State → Prop where
  | done (s) : Effects s s
  | seq {s t u} : Effects s t → Effects t u → Effects s u
  /-- the record of the current channel -/
  | record (f) (h : KeepsParser f) (s) : Effects s (modCh f s)
  | devWrite (a n v s) : Effects s (devWrite a n v s)
  | sysWrite (a n v s) : Effects s (sysWrite a n v s)
  | sysRead (a n s) : Effects s (sysRead a n s).2
  | log (e s) : Effects s (logEvent e s)
  | dirty (r s) : Effects s (markDirty r s)
  | clock (s) : Effects s (now s).2
  | raiseFifo (s) : Effects s (raiseFifo s)
  | raiseNotify (s) : Effects s (raiseNotify s)
  | queue (e) (s : State) : Effects s { s with pendq := s.pendq ++ [e] }
  | refCnt (p) (s : State) : Effects s { s with live := { s.live with ref := p } }

/-! ## Every method is made of them -/

theorem effects_ifc (f : IfcState → IfcState) (s : State) : Effects s (modIfc f s) :=
  .record _ (by intro _; exact ⟨rfl, rfl, rfl, rfl, rfl, rfl⟩) s

theorem effects_dmaWrite (obj off : Word) (n : Nat) (v : Word) (s : State) : Effects s (dmaWrite obj off n v s) := by
  unfold dmaWrite memWrite
  split
  · exact .devWrite _ _ _ _
  · exact .sysWrite _ _ _ _

theorem effects_dmaRead (obj off : Word) (n : Nat) (s : State) : Effects s (dmaRead obj off n s).2 := by
  unfold dmaRead memRead
  split
  · exact .done _
  · exact .sysRead _ _ _

theorem effects_loop {f : Nat → State → State} (h : ∀ i s, Effects s (f i s)) (n : Nat) (s : State) :
    Effects s (loop n f s) := by
  induction n with
  | zero => exact .done _
  | succ n ih => exact .seq ih (h _ _)

theorem effects_resolve (m p : Word) (s : State) : Effects s (resolve m p s).2 := by
  unfold resolve hashLookup
  split
  · cases hashFind s p s.cur
    · exact .log _ _
    · exact .done _
  · exact .done _

theorem effects_linkStore (obj n : Word) (s : State) : Effects s (linkStore obj n s) := .devWrite _ _ _ _

theorem effects_modSc (f : Subchannel → Subchannel) (s : State) : Effects s (modSc f s) :=
  .record _ (by intro _; exact ⟨rfl, rfl, rfl, rfl, rfl, rfl⟩) s

theorem effects_notifyComplete (s : State) : Effects s (notifyComplete s) := by
  unfold notifyComplete
  split
  · have h : Effects s (modCh (fun x => { x with notifyArmed := false }) (writeRecord s.sc.notifier (now s).1 (now s).2)) :=
      .seq (.clock s) (.seq (.seq (.seq (.seq (effects_dmaWrite _ _ _ _ _) (effects_dmaWrite _ _ _ _ _))
        (effects_dmaWrite _ _ _ _ _)) (effects_dmaWrite _ _ _ _ _))
        (.record _ (by intro _; exact ⟨rfl, rfl, rfl, rfl, rfl, rfl⟩) _))
    simp only
    split
    · exact .seq h (.raiseNotify _)
    · exact h
  · exact .done _

theorem effects_classMethod (m p : Word) {h : Word → State → State} (hh : ∀ q s, Effects s (h q s)) (s : State) :
    Effects s (classMethod m p h s) :=
  .seq (effects_resolve m p s) (.seq (hh _ _) (effects_notifyComplete _))

/-- A class method that stores its parameter. -/
theorem effects_store (m p : Word) {f : Word → Channel → Channel} (hf : ∀ q, KeepsParser (f q)) (s : State) :
    Effects s (classMethod m p (fun q => modCh (f q)) s) :=
  effects_classMethod m p (fun q s => .record (f q) (hf q) s) s

theorem effects_putPixel (x y : Nat) (v : Word) (s : State) : Effects s (putPixel x y v s) := effects_dmaWrite _ _ _ _ _

theorem effects_fill (x0 y0 w h : Nat) (c : Bool) (s : State) : Effects s (fill x0 y0 w h c s) := by
  refine .seq ?_ (.dirty _ _)
  split
  · refine effects_loop (fun _ _ => effects_loop (fun _ _ => ?_) _ _) _ _
    split
    · exact effects_putPixel _ _ _ _
    · exact .done _
  · exact .done _

theorem effects_upload (s : State) : Effects s (upload s) := by
  refine .seq ?_ (.dirty _ _)
  split
  · exact effects_loop (fun _ _ => effects_loop (fun _ _ => effects_putPixel _ _ _ _) _ _) _ _
  · exact .done _

theorem effects_imageData (m q : Word) (s : State) : Effects s (imageData m q s) := by
  unfold imageData
  split
  · exact .seq (effects_dmaWrite _ _ _ _ _) (effects_ifc _ _)
  · simp only
    split
    · exact .seq (effects_ifc _ _) (.seq (effects_upload _) (effects_ifc _ _))
    · exact effects_ifc _ _
  · exact .log _ _

theorem effects_setSizeOut (q : Word) (s : State) : Effects s (setSizeOut q s) := by
  unfold setSizeOut
  simp only
  split <;> exact effects_ifc _ _

theorem effects_setSizeIn (q : Word) (s : State) : Effects s (setSizeIn q s) := by
  unfold setSizeIn
  simp only
  split
  · exact effects_ifc _ _
  · split <;> exact effects_ifc _ _

theorem effects_copyRect (sx sy dx dy w h : Nat) (s : State) : Effects s (copyRect sx sy dx dy w h s) := by
  refine .seq ?_ (.dirty _ _)
  split
  · exact effects_loop (fun _ _ => effects_loop (fun _ _ =>
      .seq (effects_dmaRead _ _ _ _) (effects_putPixel _ _ _ _)) _ _) _ _
  · exact .done _

theorem effects_copyLines (l n : Nat) (s : State) : Effects s (copyLines l n s) :=
  effects_loop (fun _ _ => effects_loop (fun _ _ =>
    .seq (effects_dmaRead _ _ _ _) (effects_dmaWrite _ _ _ _ _)) _ _) _ _

theorem effects_memCopy (s : State) : Effects s (memCopy s) := by
  unfold memCopy
  simp only
  split
  · exact .seq (effects_copyLines _ _ _) (.dirty _ _)
  · exact effects_copyLines _ _ _

theorem effects_bufferNotify (q : Word) (s : State) :
    Effects s (memCopy (modCh (fun x => { x with m2mf := { x.m2mf with notify := q } }) s)) := by
  refine .seq (.record _ ?_ _) (effects_memCopy _)
  intro _; exact ⟨rfl, rfl, rfl, rfl, rfl, rfl⟩

theorem effects_clearPlane (obj base : Word) (pitch b x0 y0 w h : Nat) (v : Word) (s : State) :
    Effects s (clearPlane obj base pitch b x0 y0 w h v s) :=
  effects_loop (fun _ _ => effects_loop (fun _ _ => effects_dmaWrite _ _ _ _ _) _ _) _ _

theorem effects_clearSurfaces (p : Word) (s : State) : Effects s (clearSurfaces p s) := by
  unfold clearSurfaces
  simp only
  refine .seq ?_ (.dirty _ _)
  split <;> split
  · exact .seq (effects_clearPlane _ _ _ _ _ _ _ _ _ _) (effects_clearPlane _ _ _ _ _ _ _ _ _ _)
  · exact effects_clearPlane _ _ _ _ _ _ _ _ _ _
  · exact effects_clearPlane _ _ _ _ _ _ _ _ _ _
  · exact .done _

theorem effects_bind (p : Word) (s : State) : Effects s (doBind p s) := by
  refine .seq (t := linkBefore s) ?_ (.seq (t := rebind p (linkBefore s)) ?_ ?_)
  · unfold linkBefore; split
    · exact effects_linkStore _ _ _
    · exact .done _
  · unfold rebind hashLookup
    cases hashFind (linkBefore s) p (linkBefore s).cur
    · exact .log _ _
    · exact effects_modSc _ _
  · show Effects _ (linkAfter _)
    unfold linkAfter; split
    · split
      · exact effects_linkStore _ _ _
      · exact effects_modSc _ _
    · exact .done _

theorem effects_notify (p : Word) (s : State) : Effects s (doNotify p s) := by
  unfold doNotify
  exact .seq (effects_resolve _ _ _) (.record _ (by intro _; exact ⟨rfl, rfl, rfl, rfl, rfl, rfl⟩) _)

theorem effects_setNotifier (p : Word) (s : State) : Effects s (doSetNotifier p s) := by
  unfold doSetNotifier
  exact .seq (effects_resolve _ _ _) (effects_modSc _ _)

theorem effects_noRow (p : Word) (s : State) : Effects s (doNoRow p s) := by
  unfold doNoRow
  split
  · exact .log _ _
  · split
    · exact .seq (.queue _ _) (.raiseFifo _)
    · exact .log _ _
    · exact effects_classMethod _ _ (fun _ _ => .log _ _) _
    · exact effects_classMethod _ _ (fun _ _ => .log _ _) _

/-! ## The meaning of a parameter row -/

theorem effects_row (i : Instr) (q : Word) (s : State) : Effects s (doRow i q s) := by
  cases i with
  | jmpl _ =>
    show Effects s (doNoRow q s)
    exact effects_noRow _ _
  | jmp _ =>
    show Effects s (doNoRow q s)
    exact effects_noRow _ _
  | call _ =>
    show Effects s (doNoRow q s)
    exact effects_noRow _ _
  | ret  =>
    show Effects s (doNoRow q s)
    exact effects_noRow _ _
  | hdr _ _ _ =>
    show Effects s (doNoRow q s)
    exact effects_noRow _ _
  | hdrNi _ _ _ =>
    show Effects s (doNoRow q s)
    exact effects_noRow _ _
  | badLow11 _ =>
    show Effects s (doNoRow q s)
    exact effects_noRow _ _
  | badB31 _ =>
    show Effects s (doNoRow q s)
    exact effects_noRow _ _
  | badB3029 _ =>
    show Effects s (doNoRow q s)
    exact effects_noRow _ _
  | badB16 _ =>
    show Effects s (doNoRow q s)
    exact effects_noRow _ _
  | badB17 _ =>
    show Effects s (doNoRow q s)
    exact effects_noRow _ _
  | data p =>
    show Effects s (doNoRow p s)
    exact effects_noRow _ _
  | bind p =>
    show Effects s (doBind p s)
    exact effects_bind _ _
  | globalUndef001 p =>
    show Effects s (doGlobalUndef 0x001 p s)
    exact .log _ _
  | globalUndef002 m p =>
    show Effects s (doGlobalUndef (m.setWidth 32) p s)
    exact .log _ _
  | globalUndef004 m p =>
    show Effects s (doGlobalUndef (m.setWidth 32) p s)
    exact .log _ _
  | globalUndef008 m p =>
    show Effects s (doGlobalUndef (m.setWidth 32) p s)
    exact .log _ _
  | globalUndef010 m p =>
    show Effects s (doGlobalUndef (m.setWidth 32) p s)
    exact .log _ _
  | globalUndef015 p =>
    show Effects s (doGlobalUndef 0x015 p s)
    exact .log _ _
  | globalUndef016 m p =>
    show Effects s (doGlobalUndef (m.setWidth 32) p s)
    exact .log _ _
  | globalUndef018 m p =>
    show Effects s (doGlobalUndef (m.setWidth 32) p s)
    exact .log _ _
  | globalUndef020 m p =>
    show Effects s (doGlobalUndef (m.setWidth 32) p s)
    exact .log _ _
  | refCnt p =>
    show Effects s (doRefCnt p s)
    exact .refCnt _ _
  | notify p =>
    show Effects s (doNotify p s)
    exact effects_notify _ _
  | setNotifier p =>
    show Effects s (doSetNotifier p s)
    exact effects_setNotifier _ _
  | clipPoint p =>
    show Effects s (doClipPoint p s)
    unfold doClipPoint
    refine effects_store _ _ ?_ _
    intro _ _
    exact ⟨rfl, rfl, rfl, rfl, rfl, rfl⟩
  | clipSize p =>
    show Effects s (doClipSize p s)
    unfold doClipSize
    refine effects_store _ _ ?_ _
    intro _ _
    exact ⟨rfl, rfl, rfl, rfl, rfl, rfl⟩
  | rop p =>
    show Effects s (doRop p s)
    unfold doRop
    refine effects_store _ _ ?_ _
    intro _ _
    exact ⟨rfl, rfl, rfl, rfl, rfl, rfl⟩
  | pattColor0 p =>
    show Effects s (doPattColor0 p s)
    unfold doPattColor0
    refine effects_store _ _ ?_ _
    intro _ _
    exact ⟨rfl, rfl, rfl, rfl, rfl, rfl⟩
  | pattColor1 p =>
    show Effects s (doPattColor1 p s)
    unfold doPattColor1
    refine effects_store _ _ ?_ _
    intro _ _
    exact ⟨rfl, rfl, rfl, rfl, rfl, rfl⟩
  | pattMono0 p =>
    show Effects s (doPattMono0 p s)
    unfold doPattMono0
    refine effects_store _ _ ?_ _
    intro _ _
    exact ⟨rfl, rfl, rfl, rfl, rfl, rfl⟩
  | pattMono1 p =>
    show Effects s (doPattMono1 p s)
    unfold doPattMono1
    refine effects_store _ _ ?_ _
    intro _ _
    exact ⟨rfl, rfl, rfl, rfl, rfl, rfl⟩
  | pattIdx i p =>
    show Effects s (doPattIdx i p s)
    unfold doPattIdx
    refine effects_store _ _ ?_ _
    intro _ _
    exact ⟨rfl, rfl, rfl, rfl, rfl, rfl⟩
  | surfDmaSrc p =>
    show Effects s (doSurfDmaSrc p s)
    unfold doSurfDmaSrc
    refine effects_store _ _ ?_ _
    intro _ _
    exact ⟨rfl, rfl, rfl, rfl, rfl, rfl⟩
  | surfDmaDst p =>
    show Effects s (doSurfDmaDst p s)
    unfold doSurfDmaDst
    refine effects_store _ _ ?_ _
    intro _ _
    exact ⟨rfl, rfl, rfl, rfl, rfl, rfl⟩
  | surfFormat p =>
    show Effects s (doSurfFormat p s)
    unfold doSurfFormat
    refine effects_store _ _ ?_ _
    intro _ _
    exact ⟨rfl, rfl, rfl, rfl, rfl, rfl⟩
  | surfPitch p =>
    show Effects s (doSurfPitch p s)
    unfold doSurfPitch
    refine effects_store _ _ ?_ _
    intro _ _
    exact ⟨rfl, rfl, rfl, rfl, rfl, rfl⟩
  | surfOfsSrc p =>
    show Effects s (doSurfOfsSrc p s)
    unfold doSurfOfsSrc
    refine effects_store _ _ ?_ _
    intro _ _
    exact ⟨rfl, rfl, rfl, rfl, rfl, rfl⟩
  | surfOfsDst p =>
    show Effects s (doSurfOfsDst p s)
    unfold doSurfOfsDst
    refine effects_store _ _ ?_ _
    intro _ _
    exact ⟨rfl, rfl, rfl, rfl, rfl, rfl⟩
  | gdiColorA p =>
    show Effects s (doGdiColorA p s)
    unfold doGdiColorA
    refine effects_store _ _ ?_ _
    intro _ _
    exact ⟨rfl, rfl, rfl, rfl, rfl, rfl⟩
  | gdiUnclippedPoint i p =>
    show Effects s (doGdiUnclippedPoint i p s)
    unfold doGdiUnclippedPoint
    refine effects_store _ _ ?_ _
    intro _ _
    exact ⟨rfl, rfl, rfl, rfl, rfl, rfl⟩
  | gdiUnclippedSize i p =>
    show Effects s (doGdiUnclippedSize i p s)
    unfold doGdiUnclippedSize
    exact effects_classMethod _ _ (fun _ _ => effects_fill _ _ _ _ _ _) _
  | gdiClipPoint0 p =>
    show Effects s (doGdiClipPoint0 p s)
    unfold doGdiClipPoint0
    refine effects_store _ _ ?_ _
    intro _ _
    exact ⟨rfl, rfl, rfl, rfl, rfl, rfl⟩
  | gdiClipPoint1 p =>
    show Effects s (doGdiClipPoint1 p s)
    unfold doGdiClipPoint1
    refine effects_store _ _ ?_ _
    intro _ _
    exact ⟨rfl, rfl, rfl, rfl, rfl, rfl⟩
  | gdiColorB p =>
    show Effects s (doGdiColorB p s)
    unfold doGdiColorB
    refine effects_store _ _ ?_ _
    intro _ _
    exact ⟨rfl, rfl, rfl, rfl, rfl, rfl⟩
  | gdiClippedPoint0 i p =>
    show Effects s (doGdiClippedPoint0 i p s)
    unfold doGdiClippedPoint0
    refine effects_store _ _ ?_ _
    intro _ _
    exact ⟨rfl, rfl, rfl, rfl, rfl, rfl⟩
  | gdiClippedPoint1 i p =>
    show Effects s (doGdiClippedPoint1 i p s)
    unfold doGdiClippedPoint1
    exact effects_classMethod _ _ (fun _ _ => effects_fill _ _ _ _ _ _) _
  | ifcPoint p =>
    show Effects s (doIfcPoint p s)
    unfold doIfcPoint
    refine effects_store _ _ ?_ _
    intro _ _
    exact ⟨rfl, rfl, rfl, rfl, rfl, rfl⟩
  | ifcSizeOut p =>
    show Effects s (doIfcSizeOut p s)
    unfold doIfcSizeOut
    exact effects_classMethod _ _ effects_setSizeOut _
  | ifcSizeIn p =>
    show Effects s (doIfcSizeIn p s)
    unfold doIfcSizeIn
    exact effects_classMethod _ _ effects_setSizeIn _
  | ifcData100 m p =>
    show Effects s (doIfcData m p s)
    unfold doIfcData
    exact effects_classMethod _ _ (effects_imageData _) _
  | ifcData200 m p =>
    show Effects s (doIfcData m p s)
    unfold doIfcData
    exact effects_classMethod _ _ (effects_imageData _) _
  | ifcData400 m p =>
    show Effects s (doIfcData m p s)
    unfold doIfcData
    exact effects_classMethod _ _ (effects_imageData _) _
  | blitPointIn p =>
    show Effects s (doBlitPointIn p s)
    unfold doBlitPointIn
    refine effects_store _ _ ?_ _
    intro _ _
    exact ⟨rfl, rfl, rfl, rfl, rfl, rfl⟩
  | blitPointOut p =>
    show Effects s (doBlitPointOut p s)
    unfold doBlitPointOut
    refine effects_store _ _ ?_ _
    intro _ _
    exact ⟨rfl, rfl, rfl, rfl, rfl, rfl⟩
  | blitSize p =>
    show Effects s (doBlitSize p s)
    unfold doBlitSize
    exact effects_classMethod _ _ (fun _ _ => effects_copyRect _ _ _ _ _ _ _) _
  | m2mfDmaIn p =>
    show Effects s (doM2mfDmaIn p s)
    unfold doM2mfDmaIn
    refine effects_store _ _ ?_ _
    intro _ _
    exact ⟨rfl, rfl, rfl, rfl, rfl, rfl⟩
  | m2mfDmaOut p =>
    show Effects s (doM2mfDmaOut p s)
    unfold doM2mfDmaOut
    refine effects_store _ _ ?_ _
    intro _ _
    exact ⟨rfl, rfl, rfl, rfl, rfl, rfl⟩
  | m2mfOfsIn p =>
    show Effects s (doM2mfOfsIn p s)
    unfold doM2mfOfsIn
    refine effects_store _ _ ?_ _
    intro _ _
    exact ⟨rfl, rfl, rfl, rfl, rfl, rfl⟩
  | m2mfOfsOut p =>
    show Effects s (doM2mfOfsOut p s)
    unfold doM2mfOfsOut
    refine effects_store _ _ ?_ _
    intro _ _
    exact ⟨rfl, rfl, rfl, rfl, rfl, rfl⟩
  | m2mfPitchIn p =>
    show Effects s (doM2mfPitchIn p s)
    unfold doM2mfPitchIn
    refine effects_store _ _ ?_ _
    intro _ _
    exact ⟨rfl, rfl, rfl, rfl, rfl, rfl⟩
  | m2mfPitchOut p =>
    show Effects s (doM2mfPitchOut p s)
    unfold doM2mfPitchOut
    refine effects_store _ _ ?_ _
    intro _ _
    exact ⟨rfl, rfl, rfl, rfl, rfl, rfl⟩
  | m2mfLineLen p =>
    show Effects s (doM2mfLineLen p s)
    unfold doM2mfLineLen
    refine effects_store _ _ ?_ _
    intro _ _
    exact ⟨rfl, rfl, rfl, rfl, rfl, rfl⟩
  | m2mfLineCount p =>
    show Effects s (doM2mfLineCount p s)
    unfold doM2mfLineCount
    refine effects_store _ _ ?_ _
    intro _ _
    exact ⟨rfl, rfl, rfl, rfl, rfl, rfl⟩
  | m2mfFormat p =>
    show Effects s (doM2mfFormat p s)
    unfold doM2mfFormat
    refine effects_store _ _ ?_ _
    intro _ _
    exact ⟨rfl, rfl, rfl, rfl, rfl, rfl⟩
  | m2mfBufferNotify p =>
    show Effects s (doM2mfBufferNotify p s)
    unfold doM2mfBufferNotify
    exact effects_classMethod _ _ effects_bufferNotify _
  | d3dDmaColor p =>
    show Effects s (doD3dDmaColor p s)
    unfold doD3dDmaColor
    refine effects_store _ _ ?_ _
    intro _ _
    exact ⟨rfl, rfl, rfl, rfl, rfl, rfl⟩
  | d3dDmaZeta p =>
    show Effects s (doD3dDmaZeta p s)
    unfold doD3dDmaZeta
    refine effects_store _ _ ?_ _
    intro _ _
    exact ⟨rfl, rfl, rfl, rfl, rfl, rfl⟩
  | d3dSurfaceFormat p =>
    show Effects s (doD3dSurfaceFormat p s)
    unfold doD3dSurfaceFormat
    refine effects_store _ _ ?_ _
    intro _ _
    exact ⟨rfl, rfl, rfl, rfl, rfl, rfl⟩
  | d3dSurfacePitch p =>
    show Effects s (doD3dSurfacePitch p s)
    unfold doD3dSurfacePitch
    refine effects_store _ _ ?_ _
    intro _ _
    exact ⟨rfl, rfl, rfl, rfl, rfl, rfl⟩
  | d3dColorOffset p =>
    show Effects s (doD3dColorOffset p s)
    unfold doD3dColorOffset
    refine effects_store _ _ ?_ _
    intro _ _
    exact ⟨rfl, rfl, rfl, rfl, rfl, rfl⟩
  | d3dZetaOffset p =>
    show Effects s (doD3dZetaOffset p s)
    unfold doD3dZetaOffset
    refine effects_store _ _ ?_ _
    intro _ _
    exact ⟨rfl, rfl, rfl, rfl, rfl, rfl⟩
  | d3dZclearValue p =>
    show Effects s (doD3dZclearValue p s)
    unfold doD3dZclearValue
    refine effects_store _ _ ?_ _
    intro _ _
    exact ⟨rfl, rfl, rfl, rfl, rfl, rfl⟩
  | d3dCclearValue p =>
    show Effects s (doD3dCclearValue p s)
    unfold doD3dCclearValue
    refine effects_store _ _ ?_ _
    intro _ _
    exact ⟨rfl, rfl, rfl, rfl, rfl, rfl⟩
  | d3dClear p =>
    show Effects s (doD3dClear p s)
    unfold doD3dClear
    exact effects_classMethod _ _ effects_clearSurfaces _
  | d3dClearRectH p =>
    show Effects s (doD3dClearRectH p s)
    unfold doD3dClearRectH
    refine effects_store _ _ ?_ _
    intro _ _
    exact ⟨rfl, rfl, rfl, rfl, rfl, rfl⟩
  | d3dClearRectV p =>
    show Effects s (doD3dClearRectV p s)
    unfold doD3dClearRectV
    refine effects_store _ _ ?_ _
    intro _ _
    exact ⟨rfl, rfl, rfl, rfl, rfl, rfl⟩

/-- The effects of the row `DATA`, whatever row the slot selects. -/
theorem effects_dispatch (p : Word) (s : State) : Effects s (doDispatch p s) := by
  unfold doDispatch
  split
  · exact effects_row _ _ _
  · exact effects_noRow _ _

/-- The meaning of a parameter row other than `DATA` is the parser's bookkeeping around its effects. -/
theorem exec_row (i : Instr) (hi : i.isParameter = true) (hd : ∀ p, i ≠ .data p) (q : Word) (s : State) :
    exec i s = .next (paramWord (encodeWord i) (doRow i q) s) := by
  cases i <;> first
    | exact Bool.noConfusion hi
    | rfl
    | exact absurd rfl (hd _)

/-- The meaning of every parameter row is the parser's bookkeeping around such effects. -/
theorem exec_parameter (i : Instr) (hi : i.isParameter = true) :
    ∃ e : State → State, (∀ s, Effects s (e s)) ∧ ∀ s, exec i s = .next (paramWord (encodeWord i) e s) := by
  by_cases hd : ∃ p, i = .data p
  · obtain ⟨p, rfl⟩ := hd
    exact ⟨doDispatch p, effects_dispatch p, fun _ => rfl⟩
  · exact ⟨doRow i 0, effects_row i 0, exec_row i hi (fun p h => hd ⟨p, h⟩) 0⟩

end Sys2Proof.Machine
end

