-- ==== Sys2Proof/Laws/Consequences.lean ====
section
/-! SUPPORT. What holds of the effects of every dispatch: what they leave alone, and what they keep. -/
namespace Sys2Proof.Machine

open Sys2Proof

/-- What no dispatch touches. -/
structure Untouched (s t : State) : Prop where
  live : t.live = { s.live with ref := t.live.ref }
  ctl : t.ctl = { s.ctl with fifoIntr := t.ctl.fifoIntr, grIntr := t.ctl.grIntr, grNsource := t.ctl.grNsource }
  chans : ∀ c, c ≠ s.cur → t.chan c = s.chan c
  cfg : t.cfg = s.cfg
  tasks : t.tasks = s.tasks
  inputs : t.inputs = s.inputs
  failIn : t.failIn = s.failIn
  replies : t.replies = s.replies

theorem Untouched.cur {s t : State} (h : Untouched s t) : t.cur = s.cur := by
  simp only [State.cur]; rw [h.ctl]

theorem Untouched.refl (s : State) : Untouched s s := ⟨rfl, rfl, fun _ _ => rfl, rfl, rfl, rfl, rfl, rfl⟩

theorem Untouched.trans {s t u : State} (h : Untouched s t) (k : Untouched t u) : Untouched s u where
  live := by rw [k.live, h.live]
  ctl := by rw [k.ctl, h.ctl]
  chans c hc := by rw [k.chans c (by rw [h.cur]; exact hc), h.chans c hc]
  cfg := by rw [k.cfg, h.cfg]
  tasks := by rw [k.tasks, h.tasks]
  inputs := by rw [k.inputs, h.inputs]
  failIn := by rw [k.failIn, h.failIn]
  replies := by rw [k.replies, h.replies]

/-- The effects of a dispatch leave all that alone. -/
theorem Effects.untouched {s t : State} (h : Effects s t) : Untouched s t := by
  induction h with
  | seq _ _ h k => exact h.trans k
  | record f _ s => exact ⟨rfl, rfl, fun c hc => chan_modCh_other f s hc, rfl, rfl, rfl, rfl, rfl⟩
  | devWrite a n v s => rw [devWrite_frame]; exact ⟨rfl, rfl, fun _ _ => rfl, rfl, rfl, rfl, rfl, rfl⟩
  | _ => exact ⟨rfl, rfl, fun _ _ => rfl, rfl, rfl, rfl, rfl, rfl⟩

/-- The effects of a dispatch keep every form of device memory that byte writes inside device memory keep. -/
theorem Effects.devOk {s t : State} (h : Effects s t) : DevOk s.cfg s.dev → DevOk t.cfg t.dev := by
  induction h with
  | seq _ _ h k => exact fun hs => k (h hs)
  | devWrite a n v s =>
    rintro ⟨h1, h2⟩
    rw [devWrite_cfg]
    refine ⟨devWrite_wf h1 a n v, fun e he => ?_⟩
    unfold Machine.devWrite at he
    split at he
    · rename_i hin
      rcases mem_writeLE he with he | he
      · exact h2 e he
      · have := (inVram_iff _ _ _).1 hin
        omega
    · exact h2 e he
  | _ => exact id

/-- `UpdateIrq` presents the line. -/
theorem lineInv_updateIrq (s : State) : LineInv (updateIrq s) := by simp [LineInv]

/-- After the effects of a dispatch the level last presented is the line, if it was before. -/
theorem Effects.lineInv {s t : State} (h : Effects s t) : LineInv s → LineInv t := by
  induction h with
  | seq _ _ h k => exact fun hs => k (h hs)
  | devWrite a n v s => rw [devWrite_frame]; exact id
  | raiseFifo s => intro _; exact lineInv_updateIrq _
  | raiseNotify s => intro _; exact lineInv_updateIrq _
  | _ => exact id

/-- What the parser's bookkeeping and a dispatch failure do around the effects: the instruction as a whole. -/
theorem exec_parameter_cases (i : Instr) (hi : i.isParameter = true) (s : State) :
    ∃ e, Effects { s with failIn := s.failIn.tail } e
      ∧ (exec i s = .next (advanceParam e) ∧ s.failNext = .no
        ∨ exec i s = .next (dispatchFailed (encodeWord i) e) ∧ s.failNext ≠ .no) := by
  obtain ⟨e, he, hx⟩ := exec_parameter i hi
  cases hf : s.failNext with
  | no => exact ⟨_, he _, .inl ⟨by rw [hx, paramWord_no hf], rfl⟩⟩
  | before => exact ⟨_, .done _, .inr ⟨by rw [hx, paramWord_before hf], by simp⟩⟩
  | after => exact ⟨_, he _, .inr ⟨by rw [hx, paramWord_after hf], by simp⟩⟩

/-- A control word changes the cursor, the current channel's record and the log, and nothing else. -/
theorem exec_control (i : Instr) (hi : i.isParameter = false) (s : State) :
    ∃ f g es, exec i s
      = .next { modCh f s with live := { s.live with get := g }, events := s.events ++ es }
      ∧ ∀ x, (f x).ifc = x.ifc := by
  have hm : ∀ w : Word, ∃ f g es, Host.Outcome.next (φ := Fault) (ρ := Refusal) (malformed w s)
      = .next { modCh f s with live := { s.live with get := g }, events := s.events ++ es }
      ∧ ∀ x, (f x).ifc = x.ifc := fun w =>
    ⟨fun x => x, s.live.get, _, by rw [modCh_id]; rfl, fun _ => rfl⟩
  cases i <;> first
    | exact Bool.noConfusion hi
    | exact hm _
    | exact ⟨fun x => x, _, [], by rw [modCh_id, List.append_nil]; rfl, fun _ => rfl⟩
    | skip
  case call t =>
    simp only [exec, execCall]
    split
    · exact ⟨fun x => x, s.live.get, _, by rw [modCh_id]; rfl, fun _ => rfl⟩
    · exact ⟨fun x => { x with subReturn := s.live.get, subActive := true }, t, [], by
        rw [List.append_nil]; rfl, fun _ => rfl⟩
  case ret =>
    simp only [exec, execRet]
    split
    · exact ⟨fun x => { x with subActive := false }, s.ch.subReturn, [], by
        rw [List.append_nil]; rfl, fun _ => rfl⟩
    · exact ⟨fun x => x, s.live.get, _, by rw [modCh_id]; rfl, fun _ => rfl⟩
  case hdr a b c =>
    exact ⟨fun x => { x with subc := a, mthd := b.setWidth 32, remaining := c, ni := false }, s.live.get, [], by
      rw [List.append_nil]; rfl, fun _ => rfl⟩
  case hdrNi a b c =>
    exact ⟨fun x => { x with subc := a, mthd := b.setWidth 32, remaining := c, ni := true }, s.live.get, [], by
      rw [List.append_nil]; rfl, fun _ => rfl⟩

end Sys2Proof.Machine
end

