-- ==== Sys2Proof/Laws/Host.lean ====
section
/-! SUPPORT. What the steps that run no instruction can do: the fetch, the context switch, the register space, and the
tick. -/
namespace Sys2Proof.Machine

open Sys2Proof

/-! ## Writes of device memory -/

/-- `t` differs from `s` in device memory only. -/
def DevOnly (s t : State) : Prop := t = { s with dev := t.dev }

theorem DevOnly.refl (s : State) : DevOnly s s := rfl

theorem DevOnly.trans {s t u : State} (h : DevOnly s t) (k : DevOnly t u) : DevOnly s u := by
  unfold DevOnly at *
  rw [k, h]

theorem devOnly_devWrite (a : Word) (n : Nat) (v : Word) (s : State) : DevOnly s (devWrite a n v s) :=
  devWrite_frame a n v s

/-- The five stores of a context switch change device memory only. -/
theorem saveLive_frame (slot : Word) (s : State) : DevOnly s (saveLive slot s) :=
  ((((devOnly_devWrite _ _ _ _).trans (devOnly_devWrite _ _ _ _)).trans (devOnly_devWrite _ _ _ _)).trans
    (devOnly_devWrite _ _ _ _)).trans (devOnly_devWrite _ _ _ _)

/-- A context switch changes device memory, the live registers and the current channel, and nothing else. -/
theorem contextSwitch_frame (n : ChanId) (s : State) :
    contextSwitch n s = { s with dev := (contextSwitch n s).dev, live := (contextSwitch n s).live,
                                 ctl := { s.ctl with curchan := chidWord n } } := by
  unfold contextSwitch
  simp only
  have h := saveLive_frame (slotAddr s s.cur) s
  unfold DevOnly at h
  generalize saveLive (slotAddr s s.cur) s = t at h
  rw [h]

/-- A write through the object-table aperture changes device memory only. -/
theorem objectWrite_frame (d : Nat) (v m : Word) (s : State) : DevOnly s (objectWrite d v m s) := by
  unfold objectWrite
  generalize 4 = n
  induction n with
  | zero => exact DevOnly.refl s
  | succ n ih =>
    simp only [loop]
    split
    · exact ih.trans (devOnly_devWrite _ _ _ _)
    · exact ih

/-! ## Fetch -/

/-- The fetch of a command word advances the cursor and may make one request to system memory. -/
theorem fetchWord_frame (s : State) :
    (fetchWord s).2 = { s with live := { s.live with get := s.live.get + 4 }, sysReads := (fetchWord s).2.sysReads,
                               sysBus := (fetchWord s).2.sysBus } := by
  simp only [fetchWord, advanceGet]
  rw [dmaRead_frame]

/-! ## Control registers -/

/-- A register that holds state reads back what was stored. -/
theorem regGet_regSet_same {r : Reg} (h : r ≠ .intr) (v : Word) (s : State) : regGet (regSet r v s) r = v := by
  cases r <;> first | exact absurd rfl h | rfl

/-- Storing a register leaves every other that holds state. -/
theorem regGet_regSet_other {r q : Reg} (h : q ≠ r) (hq : q ≠ .intr) (v : Word) (s : State) :
    regGet (regSet r v s) q = regGet s q := by
  cases r <;> cases q <;> first | exact absurd rfl h | exact absurd rfl hq | rfl

/-- Storing a register changes live and control registers only. -/
theorem regSet_frame (r : Reg) (v : Word) (s : State) :
    regSet r v s = { s with live := (regSet r v s).live, ctl := (regSet r v s).ctl } := by
  cases r <;> rfl

/-- Presenting the line changes no register. -/
theorem regGet_updateIrq (s : State) (r : Reg) : regGet (updateIrq s) r = regGet s r := by cases r <;> rfl

/-- A register whose write does not re-evaluate the line is no operand of it. -/
theorem irqLine_regSet {r : Reg} (h : movesIrq r = false) (b : BitPlaces) (v : Word) (s : State) :
    irqLine b (regSet r v s).ctl = irqLine b s.ctl := by
  cases r <;> first | exact absurd h (by decide) | rfl

/-! ## Host accesses -/

/-- The bytes of a word put together lane by lane. -/
theorem byteOf_lanes (P : Nat → Prop) [DecidablePred P] (f : Nat → Byte) {k : Nat} (hk : k < 4) :
    let lane (j : Nat) : Word := if P j then (f j).setWidth 32 <<< (8 * j) else 0
    byteOf (lane 0 ||| lane 1 ||| lane 2 ||| lane 3).toNat k = if P k then f k else 0 := by
  intro lane
  have hl : ∀ j, j < 4 → byteOf (lane j).toNat k = if j = k ∧ P j then f j else 0 := by
    intro j hj
    simp only [lane]
    by_cases hp : P j
    · simp only [hp, if_true, and_true]; exact byteOf_lane _ hj hk
    · simp only [hp, if_false, and_false]; simp [byteOf]
  rw [byteOf_or, byteOf_or, byteOf_or, hl 0 (by omega), hl 1 (by omega), hl 2 (by omega), hl 3 (by omega)]
  interval_cases k <;> simp

/-- Lane `k` of the data of a host write (R322). -/
theorem byteOf_laneData (a n w : Nat) (data : BitVec 64) {k : Nat} (hk : k < 4) :
    byteOf (laneData a n data w).toNat k
      = if a ≤ w + k ∧ w + k < a + n then byteOf data.toNat (w + k - a) else 0 :=
  byteOf_lanes (fun j => a ≤ w + j ∧ w + j < a + n) (fun j => byteOf data.toNat (w + j - a)) hk

/-- Lane `k` of the mask of a host write (R322). -/
theorem byteOf_laneMask (a n w : Nat) {k : Nat} (hk : k < 4) :
    byteOf (laneMask a n w).toNat k = if a ≤ w + k ∧ w + k < a + n then 0xFF else 0 :=
  byteOf_lanes (fun j => a ≤ w + j ∧ w + j < a + n) (fun _ => 0xFF) hk

/-- A host read of `n` bytes, byte by byte (R322). -/
theorem byteOf_hostRead (s : State) (a n k : Nat) :
    byteOf (hostRead s a n) k = if k < n then readByteAt s (a + k) else 0 := by
  induction n generalizing a k with
  | zero => simp [hostRead, byteOf]
  | succ n ih =>
    rw [hostRead]
    have hb := (readByteAt s a).isLt
    cases k with
    | zero =>
      rw [← byteOf_zero]
      apply BitVec.eq_of_toNat_eq
      simp; omega
    | succ k =>
      rw [← byteOf_succ, show ((readByteAt s a).toNat + 256 * hostRead s (a + 1) n) / 256 = hostRead s (a + 1) n by omega,
        ih, show a + 1 + k = a + (k + 1) by omega]
      simp

theorem hostRead_lt (s : State) (a n : Nat) : hostRead s a n < 256 ^ n := by
  induction n generalizing a with
  | zero => simp [hostRead]
  | succ n ih =>
    have := ih (a + 1)
    have hb := (readByteAt s a).isLt
    rw [hostRead, Nat.pow_succ]; omega

/-! ## The tick -/

/-- A round of the tick on channel `c`. -/
theorem tickRound_chan (c : ChanId) (ts : List Task) (s : State) :
    tickRound c.toNat ts s
      = if pending s c then { makeCurrent c s with tasks := .drain :: .tick (c.toNat + 1) :: ts }
        else { s with tasks := .tick (c.toNat + 1) :: ts } := by
  have hc : (BitVec.ofNat 5 c.toNat : ChanId) = c := by simp
  simp only [tickRound, c.isLt, if_true, hc]

/-- The last round. -/
theorem tickRound_end {k : Nat} (h : 32 ≤ k) (ts : List Task) (s : State) :
    tickRound k ts s = clearAcquire { s with tasks := ts } := by
  simp only [tickRound, Nat.not_lt.mpr h, if_false]

end Sys2Proof.Machine
end

