-- ==== Sys2Proof/Laws/Planes.lean ====
section
/-! SUPPORT. Loops that write memory, and writes of the elements of a plane seen through a linear DMA object. -/
namespace Sys2Proof.Machine

open Sys2Proof

/-! ## Loops of writes -/

/-- A loop whose round `i` gives the bytes `B i` the values `val` and leaves every other byte: the loop gives all those
bytes those values and leaves every other byte. A round may count on the bytes that no earlier round wrote. -/
theorem loop_writes {f : Nat → State → State} {s : State} {G : State → Prop} {B : Nat → Nat → Prop}
    {val : Nat → Byte} (n : Nat)
    (hf : ∀ i u, i < n → G u → (∀ a, (∀ k, k < i → ¬ B k a) → getByte u.dev a = getByte s.dev a) →
      G (f i u) ∧ (∀ a, B i a → getByte (f i u).dev a = val a)
        ∧ ∀ a, ¬ B i a → getByte (f i u).dev a = getByte u.dev a)
    (hs : G s) :
    G (loop n f s) ∧ (∀ a, (∃ i, i < n ∧ B i a) → getByte (loop n f s).dev a = val a)
      ∧ ∀ a, (∀ i, i < n → ¬ B i a) → getByte (loop n f s).dev a = getByte s.dev a := by
  induction n with
  | zero => exact ⟨hs, fun a ⟨i, h, _⟩ => by omega, fun _ _ => rfl⟩
  | succ n ih =>
    obtain ⟨g, h1, h2⟩ := ih (fun i u hi => hf i u (by omega))
    obtain ⟨g', k1, k2⟩ := hf n (loop n f s) (by omega) g h2
    refine ⟨g', fun a ⟨i, hi, hb⟩ => ?_, fun a ha => ?_⟩
    · by_cases hn : B n a
      · exact k1 a hn
      · show getByte (f n _).dev a = _
        rw [k2 a hn]
        refine h1 a ⟨i, ?_, hb⟩
        rcases Nat.lt_succ_iff_lt_or_eq.mp hi with h | h
        · exact h
        · subst h; exact absurd hb hn
    · show getByte (f n _).dev a = _
      rw [k2 a (ha n (by omega)), h2 a (fun i hi => ha i (by omega))]

/-- A loop of rounds that are equal wherever `G` holds, and keep it. -/
theorem loop_congr {f g : Nat → State → State} {G : State → Prop} (n : Nat) {s : State} (hs : G s)
    (h : ∀ i u, i < n → G u → f i u = g i u ∧ G (g i u)) : loop n f s = loop n g s ∧ G (loop n g s) := by
  induction n with
  | zero => exact ⟨rfl, hs⟩
  | succ n ih =>
    obtain ⟨e, k⟩ := ih (fun i u hi => h i u (by omega))
    obtain ⟨e', k'⟩ := h n _ (by omega) k
    exact ⟨by rw [loop, e, e']; rfl, k'⟩

/-! ## Linear objects on device memory -/

/-- A state that differs from `s` in device memory only, where the twelve bytes of the descriptor `obj` are as in `s`
and the canonical form holds. -/
def SameBut (s : State) (obj : Word) (u : State) : Prop :=
  u = { s with dev := u.dev } ∧ u.dev.wf = true
    ∧ ∀ a, obj.toNat ≤ a → a < obj.toNat + 12 → getByte u.dev a = getByte s.dev a

theorem sameBut_refl {s : State} (h : s.dev.wf = true) (obj : Word) : SameBut s obj s := ⟨rfl, h, fun _ _ _ => rfl⟩

/-- Reads of unchanged bytes. -/
theorem devRead_congr {s u : State} {a : Word} {n : Nat} (hc : u.cfg = s.cfg)
    (h : ∀ k, k < n → getByte u.dev (a.toNat + k) = getByte s.dev (a.toNat + k)) : devRead u a n = devRead s a n := by
  simp only [devRead, hc, readLE_congr h]

theorem linear_bits {s : State} {obj : Word} (h : LinearDev s obj) : (obj + 8).toNat = obj.toNat + 8 := by
  obtain ⟨h1, h2, -⟩ := h
  rw [BitVec.toNat_add]
  simp
  omega

/-- Translation through a linear object on device memory whose descriptor has not changed (R84). -/
theorem dmaXlate_linear {s u : State} {obj : Word} (h : LinearDev s obj) (hc : u.cfg = s.cfg)
    (hd : ∀ a, obj.toNat ≤ a → a < obj.toNat + 12 → getByte u.dev a = getByte s.dev a) (off : Word) :
    dmaXlate u obj off = (.dev, viewBase s obj + off) := by
  have e8 := linear_bits h
  have h0 : devRead u obj 4 = devRead s obj 4 := devRead_congr hc (fun k hk => hd _ (by omega) (by omega))
  have h2 : devRead u (obj + 8) 4 = devRead s (obj + 8) 4 :=
    devRead_congr hc (fun k hk => hd _ (by omega) (by omega))
  obtain ⟨-, -, h17, h13⟩ := h
  unfold dmaXlate viewBase
  simp only [h0, h2, h17, h13]
  simp

/-- The address of an offset that does not wrap. -/
theorem viewAddr {s : State} {obj ofs : Word} {n : Nat} (h : (viewBase s obj).toNat + ofs.toNat + n < 2 ^ 32) :
    (viewBase s obj + offset ofs n).toNat = (viewBase s obj).toNat + ofs.toNat + n := by
  simp only [offset, BitVec.toNat_add, BitVec.toNat_ofNat]
  omega

/-- The bytes of one element of a plane. -/
def cellBytes (s : State) (obj ofs : Word) (pitch b x y a : Nat) : Prop :=
  elemAddr s obj ofs pitch b x y ≤ a ∧ a < elemAddr s obj ofs pitch b x y + b

theorem elemAddr_bounds {s : State} {obj ofs : Word} {pitch b x0 y0 w h i j : Nat} (hi : i < w) (hj : j < h) :
    elemAddr s obj ofs pitch b x0 y0 ≤ elemAddr s obj ofs pitch b (x0 + i) (y0 + j)
    ∧ elemAddr s obj ofs pitch b (x0 + i) (y0 + j) + b ≤ elemAddr s obj ofs pitch b (x0 + w) (y0 + h) := by
  unfold elemAddr
  have h1 : (y0 + j) * pitch ≤ (y0 + h) * pitch := Nat.mul_le_mul_right _ (by omega)
  have h2 : (x0 + i + 1) * b ≤ (x0 + w) * b := Nat.mul_le_mul_right _ (by omega)
  have h3 : y0 * pitch ≤ (y0 + j) * pitch := Nat.mul_le_mul_right _ (by omega)
  have h4 : x0 * b ≤ (x0 + i) * b := Nat.mul_le_mul_right _ (by omega)
  rw [Nat.succ_mul] at h2
  omega

/-- Two elements of a rectangle of a plane share a byte only if they are one element. -/
theorem cell_unique {s : State} {obj ofs : Word} {pitch b x0 y0 w h i j i' j' a : Nat}
    (hp : w * b ≤ pitch ∨ h ≤ 1) (hi : i < w) (hj : j < h) (hi' : i' < w) (hj' : j' < h)
    (h1 : cellBytes s obj ofs pitch b (x0 + i) (y0 + j) a) (h2 : cellBytes s obj ofs pitch b (x0 + i') (y0 + j') a) :
    i = i' ∧ j = j' := by
  unfold cellBytes elemAddr at h1 h2
  have hb : ∀ k, k < w → k * b + b ≤ w * b := fun k hk => by
    have := Nat.mul_le_mul_right b (show k + 1 ≤ w by omega); rwa [Nat.succ_mul] at this
  have b1 := hb i hi
  have b2 := hb i' hi'
  rw [Nat.add_mul, Nat.add_mul] at h1 h2
  have hjj : j = j' := by
    rcases hp with hp | hp
    · by_contra hne
      rcases Nat.lt_or_gt_of_ne hne with hlt | hlt
      · have := Nat.mul_le_mul_right pitch (show j + 1 ≤ j' by omega); rw [Nat.succ_mul] at this; omega
      · have := Nat.mul_le_mul_right pitch (show j' + 1 ≤ j by omega); rw [Nat.succ_mul] at this; omega
    · omega
  subst hjj
  refine ⟨?_, rfl⟩
  by_contra hne
  rcases Nat.lt_or_gt_of_ne hne with hlt | hlt
  · have := Nat.mul_le_mul_right b (show i + 1 ≤ i' by omega); rw [Nat.succ_mul] at this; omega
  · have := Nat.mul_le_mul_right b (show i' + 1 ≤ i by omega); rw [Nat.succ_mul] at this; omega

/-- A write of one element through a linear object: its bytes, and no other. -/
theorem cell_write {s u : State} {obj ofs : Word} {pitch b x y : Nat} (hl : LinearDev s obj) (hu : SameBut s obj u)
    (he : elemAddr s obj ofs pitch b x y + b ≤ s.cfg.vramSize) (hb0 : 0 < b)
    (hd : obj.toNat + 12 ≤ elemAddr s obj ofs pitch b x y ∨ elemAddr s obj ofs pitch b x y + b ≤ obj.toNat)
    (v : Word) :
    let t := dmaWrite obj (offset ofs (y * pitch + x * b)) b v u
    SameBut s obj t
      ∧ (∀ k, k < b → getByte t.dev (elemAddr s obj ofs pitch b x y + k) = byteOf v.toNat k)
      ∧ ∀ a, ¬ cellBytes s obj ofs pitch b x y a → getByte t.dev a = getByte u.dev a := by
  intro t
  obtain ⟨hu1, hu2, hu3⟩ := hu
  have hc : u.cfg = s.cfg := by rw [hu1]
  have hx := dmaXlate_linear hl hc hu3 (offset ofs (y * pitch + x * b))
  have ha : (viewBase s obj + offset ofs (y * pitch + x * b)).toNat = elemAddr s obj ofs pitch b x y := by
    have := hl.1
    rw [viewAddr (by unfold elemAddr at he; omega)]
    unfold elemAddr; omega
  have ht : t = devWrite (viewBase s obj + offset ofs (y * pitch + x * b)) b v u := by
    show dmaWrite _ _ _ _ _ = _
    rw [dmaWrite_dev_target (by rw [hx]), hx]
  have hout : ∀ a, ¬ cellBytes s obj ofs pitch b x y a → getByte t.dev a = getByte u.dev a := by
    intro a hna
    unfold cellBytes at hna
    rw [ht, getByte_devWrite_other hu2 (by rw [ha]; omega)]
  refine ⟨⟨?_, ?_, fun a h1 h2 => ?_⟩, fun k hk => ?_, hout⟩
  · rw [ht, devWrite_frame, hu1]
  · rw [ht]; exact devWrite_wf hu2 _ _ _
  · rw [hout a (by unfold cellBytes; omega)]; exact hu3 a h1 h2
  · rw [ht, ← ha, getByte_devWrite_same hu2 (by rw [ha, hc]; exact he) hk]

/-- A read of one element through a linear object. -/
theorem cell_read {s u : State} {obj ofs : Word} {pitch b x y : Nat} (hl : LinearDev s obj) (hu : SameBut s obj u)
    (he : elemAddr s obj ofs pitch b x y + b ≤ s.cfg.vramSize) (hb0 : 0 < b) (hb4 : b ≤ 4)
    (hr : ∀ k, k < b → getByte u.dev (elemAddr s obj ofs pitch b x y + k)
      = getByte s.dev (elemAddr s obj ofs pitch b x y + k)) :
    ∃ v : Word, dmaRead obj (offset ofs (y * pitch + x * b)) b u = (v, u)
      ∧ ∀ k, k < b → byteOf v.toNat k = getByte s.dev (elemAddr s obj ofs pitch b x y + k) := by
  obtain ⟨hu1, hu2, hu3⟩ := hu
  have hc : u.cfg = s.cfg := by rw [hu1]
  have hx := dmaXlate_linear hl hc hu3 (offset ofs (y * pitch + x * b))
  have ha : (viewBase s obj + offset ofs (y * pitch + x * b)).toNat = elemAddr s obj ofs pitch b x y := by
    have := hl.1
    rw [viewAddr (by unfold elemAddr at he; omega)]
    unfold elemAddr; omega
  refine ⟨_, dmaRead_dev_target (by rw [hx]) b, fun k hk => ?_⟩
  rw [hx]
  simp only
  rw [devRead_eq (by rw [hc, ha]; exact he)]
  have hlt := readLE_lt u.dev (elemAddr s obj ofs pitch b x y) b
  have h32 : 2 ^ (8 * b) ≤ 2 ^ 32 := Nat.pow_le_pow_right (by decide) (by omega)
  rw [ha, BitVec.toNat_ofNat, Nat.mod_eq_of_lt (by omega), byteOf_readLE hk, hr k hk]

end Sys2Proof.Machine
end

