-- ==== Sys2Proof/Laws/Items.lean ====
section
/-! SUPPORT. Items stored one after another through any DMA object: a run of `DmaWrite`s, and the double loops that are
such runs. -/
namespace Sys2Proof.Machine

open Sys2Proof

/-- `DmaWrite` of each value in its item, in order. -/
def storeAll (ws : List (Item × Word)) (s : State) : State :=
  ws.foldl (fun u w => dmaWrite w.1.obj w.1.off w.1.size w.2 u) s

theorem storeAll_append (us vs : List (Item × Word)) (s : State) :
    storeAll (us ++ vs) s = storeAll vs (storeAll us s) := by simp [storeAll]

/-- A state that differs from `s` in device memory and in what system memory was asked for only. -/
def SameButStores (s u : State) : Prop :=
  u = { s with dev := u.dev, sysBus := u.sysBus, sysReads := u.sysReads }

theorem sameButStores_refl (s : State) : SameButStores s s := rfl

theorem SameButStores.trans {s t u : State} (h : SameButStores s t) (k : SameButStores t u) : SameButStores s u := by
  unfold SameButStores at *
  rw [k, h]

theorem sameButStores_dmaWrite (obj off : Word) (n : Nat) (v : Word) (s : State) :
    SameButStores s (dmaWrite obj off n v s) := by
  unfold SameButStores
  conv => lhs; rw [dmaWrite_frame]
  rw [dmaWrite_frame]

theorem sameButStores_dmaRead (obj off : Word) (n : Nat) (s : State) :
    SameButStores s (dmaRead obj off n s).2 := by
  unfold SameButStores
  conv => lhs; rw [dmaRead_frame]
  rw [dmaRead_frame]

theorem sameButStores_storeAll (ws : List (Item × Word)) (s : State) : SameButStores s (storeAll ws s) := by
  induction ws generalizing s with
  | nil => exact sameButStores_refl s
  | cons w ws ih => exact (sameButStores_dmaWrite _ _ _ _ s).trans (ih _)

/-! ## Translation -/

/-- Translation goes through the words of `xlateReads` only. -/
theorem dmaXlate_steady {s u : State} {obj off : Word} (hc : u.cfg = s.cfg)
    (h : ∀ r ∈ xlateReads s obj off, ∀ k, k < 4 → getByte u.dev (r.toNat + k) = getByte s.dev (r.toNat + k)) :
    dmaXlate u obj off = dmaXlate s obj off := by
  have h0 : devRead u obj 4 = devRead s obj 4 := devRead_congr hc (h _ (by simp [xlateReads]))
  unfold dmaXlate
  simp only [h0, field_bit]
  by_cases hb : (devRead s obj 4).getLsbD 13 = true
  · have h2 : devRead u (obj + 8) 4 = devRead s (obj + 8) 4 := devRead_congr hc (h _ (by simp [xlateReads, hb]))
    simp only [hb, if_true, h2]
  · let page : Word := (off + (devRead s obj 4 >>> 20)) >>> 12
    have h2 : devRead u (obj + 8 + page * 4) 4 = devRead s (obj + 8 + page * 4) 4 :=
      devRead_congr hc (h _ (by simp only [xlateReads, hb]; simp [page]))
    simp only [hb, page] at h2 ⊢
    simp only [h2]
    rfl

/-- Items that a step of storing does not move. -/
def Unmoved (s : State) (cs : List Item) (u : State) : Prop :=
  u.cfg = s.cfg ∧ u.dev.wf = true
    ∧ ∀ c ∈ cs, ∀ r ∈ xlateReads s c.obj c.off, ∀ k, k < 4 → getByte u.dev (r.toNat + k) = getByte s.dev (r.toNat + k)

/-- One store: its item's bytes, no other; or a request. -/
theorem dmaWrite_item {s u : State} {cs : List Item} (hu : Unmoved s cs u) {c : Item} (hc : c ∈ cs) (v : Word) :
    let t := dmaWrite c.obj c.off c.size v u
    t.dev.wf = true
    ∧ (∀ a, ¬ c.covers s a → getByte t.dev a = getByte u.dev a)
    ∧ (∀ k, k < c.size → c.covers s ((dmaXlate s c.obj c.off).2.toNat + k) →
        getByte t.dev ((dmaXlate s c.obj c.off).2.toNat + k) = byteOf v.toNat k)
    ∧ ((dmaXlate s c.obj c.off).1 = .sys → t.dev = u.dev
        ∧ t.sysBus = u.sysBus ++ [.write (dmaXlate s c.obj c.off).2 c.size (v &&& byteMask c.size)])
    ∧ ((dmaXlate s c.obj c.off).1 = .dev → t.sysBus = u.sysBus) := by
  intro t
  obtain ⟨h1, h2, h3⟩ := hu
  have hx : dmaXlate u c.obj c.off = dmaXlate s c.obj c.off := dmaXlate_steady h1 (h3 c hc)
  have ht : t = memWrite (dmaXlate s c.obj c.off).1 (dmaXlate s c.obj c.off).2 c.size v u := by
    show dmaWrite _ _ _ _ _ = _
    rw [dmaWrite, hx]
  generalize hX : dmaXlate s c.obj c.off = x at *
  obtain ⟨sp, a⟩ := x
  cases sp with
  | sys => exact ⟨by rw [ht]; exact h2, fun _ _ => by rw [ht]; rfl,
      fun k _ hk => by simp [Item.covers, hX] at hk, fun _ => by rw [ht]; exact ⟨rfl, rfl⟩, fun h => by simp at h⟩
  | dev =>
    replace ht : t = devWrite a c.size v u := ht
    refine ⟨by rw [ht]; exact devWrite_wf h2 _ _ _, fun b hb => ?_, fun k hk hb => ?_, fun h => by simp at h,
      fun _ => by rw [ht, devWrite_frame]⟩
    · rw [ht]
      by_cases hin : a.toNat + c.size ≤ s.cfg.vramSize
      · refine getByte_devWrite_other h2 ?_
        simp only [Item.covers, hX, hin, true_and, not_and, Nat.not_lt] at hb
        omega
      · rw [devWrite_out (by rw [h1]; omega)]
    · simp only [Item.covers, hX, true_and] at hb
      rw [ht]
      exact getByte_devWrite_same h2 (by rw [h1]; exact hb.1) hk

/-- What storing many items can do, when none of them lies on a word through which one is translated. -/
theorem stored_storeAll {s : State} {cs : List Item} (hw : s.dev.wf = true) (hst : Steady s cs)
    (ws : List (Item × Word)) (hcs : ∀ w ∈ ws, w.1 ∈ cs) (hsz : ∀ w ∈ ws, w.1.size ≤ 4) :
    Unmoved s cs (storeAll ws s) ∧ Stored s (storeAll ws s) ws := by
  induction ws using List.reverseRecOn with
  | nil =>
    exact ⟨⟨rfl, hw, fun _ _ _ _ _ _ => rfl⟩, fun _ _ => rfl, fun us w vs h => by simp at h, fun _ => rfl, by
      simp [storeAll]⟩
  | append_singleton ws w ih =>
    obtain ⟨hu, g1, g2, g3, g4⟩ := ih (fun x hx => hcs x (by simp [hx])) (fun x hx => hsz x (by simp [hx]))
    have hwc : w.1 ∈ cs := hcs w (by simp)
    obtain ⟨k0, k1, k2, k3, k4⟩ := dmaWrite_item hu hwc w.2
    rw [storeAll_append]
    generalize storeAll ws s = u at *
    show Unmoved s cs (dmaWrite w.1.obj w.1.off w.1.size w.2 u) ∧ Stored s (dmaWrite w.1.obj w.1.off w.1.size w.2 u) _
    generalize ht : dmaWrite w.1.obj w.1.off w.1.size w.2 u = t at *
    refine ⟨⟨?_, k0, fun c hc r hr k hk => ?_⟩, fun a ha => ?_, fun us x vs hx k hk => ?_, fun h => ?_, ?_⟩
    · rw [← ht, dmaWrite_frame]; exact hu.1
    · rw [k1, hu.2.2 c hc r hr k hk]
      intro hcov
      have := hst w.1 hwc _ hcov c hc r hr
      omega
    · rw [k1 a (ha w (by simp)), g1 a (fun x hx => ha x (by simp [hx]))]
    · intro a hca hv
      rcases List.eq_nil_or_concat vs with rfl | ⟨vs', y, rfl⟩
      · obtain ⟨-, h2⟩ := List.append_inj' hx rfl
        obtain rfl : w = x := by simpa using h2
        exact k2 k hk hca
      · have hx' : ws ++ [w] = (us ++ x :: vs') ++ [y] := by simpa using hx
        obtain ⟨h1, h2⟩ := List.append_inj' hx' rfl
        obtain rfl : w = y := by simpa using h2
        rw [k1 a (hv w (by simp))]
        exact g2 us x vs' h1 k hk hca (fun v hv' => hv v (by simp [hv']))
    · rw [(k3 (h w (by simp))).1]; exact g3 (fun x hx => h x (by simp [hx]))
    · cases hsp : (dmaXlate s w.1.obj w.1.off).1 with
      | sys =>
        have e : w.2 &&& byteMask w.1.size = BitVec.ofNat 32 (w.2.toNat % 2 ^ (8 * w.1.size)) := by
          apply BitVec.eq_of_toNat_eq
          have := hsz w (by simp)
          rw [byteMask, and_mask_toNat _ _ (by omega), BitVec.toNat_ofNat]
          have := w.2.isLt
          have := Nat.mod_le w.2.toNat (2 ^ (8 * w.1.size))
          omega
        rw [(k3 hsp).2, g4, e]; simp [hsp]
      | dev => rw [k4 hsp, g4]; simp [hsp]

/-- A store takes the low bytes of its value only. -/
theorem dmaWrite_byteMask (obj off : Word) {n : Nat} (hn : n ≤ 4) (v : Word) (s : State) :
    dmaWrite obj off n (v &&& byteMask n) s = dmaWrite obj off n v s := by
  have hmod : ∀ (n : Nat) (m : Memory) (a x : Nat), writeLE m a n (x % 2 ^ (8 * n)) = writeLE m a n x := by
    intro n
    induction n with
    | zero => intro m a x; rfl
    | succ n ih =>
      intro m a x
      have e : 2 ^ (8 * (n + 1)) = 256 * 2 ^ (8 * n) := by
        rw [show 8 * (n + 1) = 8 + 8 * n by omega, Nat.pow_add]
      have e2 : BitVec.ofNat 8 (x % (256 * 2 ^ (8 * n))) = BitVec.ofNat 8 x := by
        apply BitVec.eq_of_toNat_eq
        simp only [BitVec.toNat_ofNat]
        exact Nat.mod_mul_right_mod x (2 ^ 8) _
      rw [writeLE, writeLE, e, Nat.mod_mul_right_div_self, ih, e2]
  have hm : (v &&& byteMask n).toNat = v.toNat % 2 ^ (8 * n) := and_mask_toNat v (8 * n) (by omega)
  unfold dmaWrite memWrite
  split
  · unfold devWrite
    rw [hm, hmod]
  · unfold sysWrite
    rw [show v &&& byteMask n &&& byteMask n = v &&& byteMask n by rw [BitVec.and_assoc, BitVec.and_self]]

/-! ## Items that lie apart -/

/-- An item lies in system memory, or before or behind a word. -/
def Item.apartFrom (s : State) (c : Item) (r : Word) : Bool :=
  let x := dmaXlate s c.obj c.off
  x.1 == .sys || decide (x.2.toNat + c.size ≤ r.toNat) || decide (r.toNat + 4 ≤ x.2.toNat)

theorem not_covers_of_apartFrom {s : State} {c : Item} {r : Word} {a : Nat} (h : c.apartFrom s r = true)
    (hc : c.covers s a) : a < r.toNat ∨ r.toNat + 4 ≤ a := by
  obtain ⟨h1, -, h3, h4⟩ := hc
  simp only [Item.apartFrom, h1, Bool.or_eq_true, decide_eq_true_eq] at h
  rcases h with (k | k) | k
  · simp at k
  · exact .inl (by omega)
  · exact .inr (by omega)

/-- Items that lie apart from every word through which one of them is translated move none of them. -/
theorem steady_of_apart {s : State} {cs : List Item}
    (h : cs.all (fun c => cs.all (fun d => (xlateReads s d.obj d.off).all (c.apartFrom s))) = true) : Steady s cs := by
  intro c hc a ha d hd r hr
  simp only [List.all_eq_true] at h
  exact not_covers_of_apartFrom (h c hc d hd r hr) ha

/-- Two items that lie before or behind each other share no byte. -/
theorem not_covers_of_apart {s : State} {c d : Item} {a : Nat} (hc : c.covers s a)
    (h : (dmaXlate s c.obj c.off).2.toNat + c.size ≤ (dmaXlate s d.obj d.off).2.toNat
      ∨ (dmaXlate s d.obj d.off).2.toNat + d.size ≤ (dmaXlate s c.obj c.off).2.toNat) : ¬ d.covers s a := by
  rintro ⟨-, -, h3, h4⟩
  obtain ⟨-, -, k3, k4⟩ := hc
  omega

/-! ## Double loops -/

theorem mem_grid {α : Type} {w h : Nat} {f : Nat → Nat → List α} {c : α} :
    c ∈ grid w h f ↔ ∃ i j, i < w ∧ j < h ∧ c ∈ f i j := by
  simp only [grid, List.mem_flatMap, List.mem_range]
  constructor
  · rintro ⟨j, hj, i, hi, hc⟩; exact ⟨i, j, hi, hj, hc⟩
  · rintro ⟨i, j, hi, hj, hc⟩; exact ⟨j, hj, i, hi, hc⟩

/-- A double loop whose rounds are stores wherever `G` holds, and keep `G`, is one run of stores, row by row. -/
theorem loop_grid {f : Nat → Nat → State → State} {L : Nat → Nat → List (Item × Word)} {G : State → Prop}
    {h w : Nat} (hf : ∀ j i u, j < h → i < w → G u → f j i u = storeAll (L i j) u ∧ G (storeAll (L i j) u))
    {s : State} (hs : G s) :
    loop h (fun j => loop w (f j)) s = storeAll (grid w h L) s ∧ G (storeAll (grid w h L) s) := by
  have row : ∀ j, j < h → ∀ n, n ≤ w → ∀ u, G u →
      loop n (f j) u = storeAll ((List.range n).flatMap (fun i => L i j)) u
        ∧ G (storeAll ((List.range n).flatMap (fun i => L i j)) u) := by
    intro j hj n hn u hu
    induction n with
    | zero => exact ⟨rfl, hu⟩
    | succ n ih =>
      obtain ⟨h1, h2⟩ := ih (by omega)
      have k := hf j n _ hj (by omega) h2
      rw [loop, h1, List.range_succ, List.flatMap_append, storeAll_append, k.1]
      simpa using k.2
  have col : ∀ n, n ≤ h →
      loop n (fun j => loop w (f j)) s
        = storeAll ((List.range n).flatMap (fun j => (List.range w).flatMap (fun i => L i j))) s
        ∧ G (storeAll ((List.range n).flatMap (fun j => (List.range w).flatMap (fun i => L i j))) s) := by
    intro n hn
    induction n with
    | zero => exact ⟨rfl, hs⟩
    | succ n ih =>
      obtain ⟨h1, h2⟩ := ih (by omega)
      have k := row n (by omega) w (le_refl _) _ h2
      rw [loop, h1, List.range_succ, List.flatMap_append, storeAll_append, k.1]
      simpa using k.2
  exact col h (le_refl _)

end Sys2Proof.Machine
end

