-- ==== Sys2Proof/Laws/Numbering.lean ====
section
/-! SUPPORT. What the method numbers of a device (Machine/Numbering.lean) can do: when a number is a method's, and which
number of the opcode table it then is. -/
namespace Sys2Proof

/-- The number `m` is the `k`-th of a method's numbers from `first` on. -/
def MthdEntry.Has (e : MthdEntry) (first : Mthd) (m : Word) (k : Nat) : Prop :=
  k < e.count ∧ m.toNat = first.toNat + e.step * k ∧ m.toNat < 0x800

/-- A position is one of the numbers. -/
theorem position_has {e : MthdEntry} {first : Mthd} {m : Word} {k : Nat} (h : e.position first m = some k) :
    e.Has first m k := by
  unfold MthdEntry.position at h
  simp only at h
  split at h
  · next hc =>
    simp only [Option.some.injEq] at h
    subst h
    exact ⟨hc.2.1, hc.1.symm, hc.2.2⟩
  · simp at h

/-- One of the numbers has its position, where the numbers differ. -/
theorem position_of_has {e : MthdEntry} {first : Mthd} {m : Word} {k : Nat} (hs : 0 < e.step) (h : e.Has first m k) :
    e.position first m = some k := by
  obtain ⟨h1, h2, h3⟩ := h
  have hk : (m.toNat - first.toNat) / e.step = k := by
    rw [h2, Nat.add_sub_cancel_left, Nat.mul_div_cancel_left _ hs]
  unfold MthdEntry.position
  simp only [hk]
  rw [if_pos ⟨h2.symm, h1, h3⟩]

/-- What is none of the numbers has no position. -/
theorem position_none {e : MthdEntry} {first : Mthd} {m : Word} (h : ∀ k, ¬ e.Has first m k) :
    e.position first m = none := by
  cases hp : e.position first m with
  | none => rfl
  | some k => exact absurd (position_has hp) (h k)

/-- Without a position it is none of the numbers. -/
theorem not_has_of_position {e : MthdEntry} {first : Mthd} {m : Word} (hs : 0 < e.step)
    (h : e.position first m = none) (k : Nat) : ¬ e.Has first m k := by
  intro hk
  rw [position_of_has hs hk] at h
  simp at h

/-- The number of the opcode table where the device has the number. -/
theorem toTable_of_has {e : MthdEntry} {m : Word} {k : Nat} (hs : 0 < e.step) (h : e.Has e.base m k) :
    e.toTable m = some (BitVec.ofNat 32 (e.table.toNat + e.step * k)) := by
  rw [MthdEntry.toTable, position_of_has hs h]; rfl

theorem toTable_none {e : MthdEntry} {m : Word} (h : ∀ k, ¬ e.Has e.base m k) : e.toTable m = none := by
  rw [MthdEntry.toTable, position_none h]; rfl

/-- A method that the device numbers as the table does keeps its number. -/
theorem toTable_same {e : MthdEntry} {m t : Word} (hb : e.base = e.table) (h : e.toTable m = some t) : t = m := by
  unfold MthdEntry.toTable at h
  cases hp : e.position e.base m with
  | none => rw [hp] at h; simp at h
  | some k =>
    rw [hp] at h
    simp only [Option.map_some, Option.some.injEq] at h
    rw [← h, ← hb, ← (position_has hp).2.1]
    simp

/-! ## Among several methods -/

/-- The first method of the list that has the number decides. -/
theorem tableNumber_first {es rest : List MthdEntry} {e : MthdEntry} {m : Word} {k : Nat} (hs : 0 < e.step)
    (h : e.Has e.base m k) (hn : ∀ d ∈ es, ∀ k, ¬ d.Has d.base m k) :
    tableNumber (es ++ e :: rest) m = some (BitVec.ofNat 32 (e.table.toNat + e.step * k)) := by
  have h0 : es.findSome? (·.toTable m) = none := by
    rw [List.findSome?_eq_none_iff]
    exact fun d hd => toTable_none (hn d hd)
  rw [tableNumber, List.findSome?_append, h0, List.findSome?_cons, toTable_of_has hs h]
  rfl

/-- A number that no method of the list has, in the device or in the table, stays itself; one that only the table gives
to a method of the list is none. -/
theorem tableNumber_other {es : List MthdEntry} {m : Word} (hn : ∀ e ∈ es, ∀ k, ¬ e.Has e.base m k) :
    tableNumber es m = if es.any (fun e => (e.position e.table m).isSome) then none else some m := by
  have h0 : es.findSome? (·.toTable m) = none := by
    rw [List.findSome?_eq_none_iff]
    exact fun d hd => toTable_none (hn d hd)
  rw [tableNumber, h0]

/-- Methods that the device numbers as the table does keep every number. -/
theorem tableNumber_same {es : List MthdEntry} (h : ∀ e ∈ es, e.base = e.table) (m : Word) :
    tableNumber es m = some m := by
  unfold tableNumber
  cases hf : es.findSome? (·.toTable m) with
  | some t =>
    obtain ⟨e, he, ht⟩ := List.exists_of_findSome?_eq_some hf
    simp only [toTable_same (h e he) ht]
  | none =>
    have : es.any (fun e => (e.position e.table m).isSome) = false := by
      rw [List.any_eq_false]
      intro e he hp
      have := (List.findSome?_eq_none_iff.1 hf) e he
      rw [MthdEntry.toTable, h e he, Option.map_eq_none_iff] at this
      simp [this] at hp
    simp [this]

end Sys2Proof
end

