-- ==== Sys2Proof/Laws/Params.lean ====
section
/-! SUPPORT. A parameter word that the oracle lets through: effects that are one change of the current record, or a
change of the rest of the state; handle-valued parameters. -/
namespace Sys2Proof.Machine

open Sys2Proof

/-- A change of a record that leaves what the parser's bookkeeping reads. -/
def KeepsCounters (f : Channel → Channel) : Prop :=
  ∀ x, (f x).mthd = x.mthd ∧ (f x).ni = x.ni ∧ (f x).remaining = x.remaining

theorem keepsCounters_id : KeepsCounters id := fun _ => ⟨rfl, rfl, rfl⟩

/-- The bookkeeping after a change of the record is `afterParam`. -/
theorem advanceParam_modCh {f : Channel → Channel} (hf : KeepsCounters f) (s : State) (l : List FailMode) :
    advanceParam (modCh f { s with failIn := l.tail }) = afterParam f { s with failIn := l } := by
  rw [advanceParam, modCh_modCh, afterParam]
  apply modCh_congr
  simp [Channel.advance, (hf _).1, (hf _).2.1, (hf _).2.2, nextMthd]

/-- Effects that change the rest of the state by `g` and the current record by `f`. -/
theorem paramWord_record {s : State} (h : s.failNext = .no) (p : Word) {f : Channel → Channel} (hf : KeepsCounters f)
    {g e : State → State} (he : e { s with failIn := s.failIn.tail } = modCh f { g s with failIn := s.failIn.tail })
    (ht : (g s).failIn = s.failIn) : paramWord p e s = afterParam f (g s) := by
  rw [paramWord_no h, he, advanceParam_modCh hf]
  rw [show ({ g s with failIn := s.failIn } : State) = g s by rw [← ht]]

/-- Effects that leave the current record. -/
theorem paramWord_state {s : State} (h : s.failNext = .no) (p : Word) {g e : State → State}
    (he : e { s with failIn := s.failIn.tail } = { g s with failIn := s.failIn.tail }) (ht : (g s).failIn = s.failIn) :
    paramWord p e s = afterParam id (g s) :=
  paramWord_record h p keepsCounters_id (by rw [he]; exact (modCh_id _).symm) ht

/-! ## Re-resolution of a parameter -/

theorem handleValue_failIn (s : State) (p : Word) (l : List FailMode) :
    handleValue { s with failIn := l } p = handleValue s p := by
  have e := hashFind_congr (s := s) (t := { s with failIn := l }) rfl rfl rfl p s.cur
  unfold handleValue; rw [show State.cur { s with failIn := l } = s.cur from rfl, e]

theorem handleEvents_failIn (s : State) (p : Word) (l : List FailMode) :
    handleEvents { s with failIn := l } p = handleEvents s p := by
  have e := hashFind_congr (s := s) (t := { s with failIn := l }) rfl rfl rfl p s.cur
  unfold handleEvents; rw [show State.cur { s with failIn := l } = s.cur from rfl, e]

/-- `Resolve` as the value it answers and the state it leaves. -/
theorem resolve_eq (m p : Word) (s : State) : resolve m p s = (paramValue s m p, resolved s m p) := by
  unfold resolve hashLookup paramValue resolved paramEvents handleValue handleEvents
  cases s.cfg.mthds.takesHandle m
  · simp
  · cases hashFind s p s.cur <;> simp [logEvent]

theorem paramValue_failIn (s : State) (m p : Word) (l : List FailMode) :
    paramValue { s with failIn := l } m p = paramValue s m p := by
  simp only [paramValue, handleValue_failIn]

theorem resolved_failIn (s : State) (m p : Word) (l : List FailMode) :
    resolved { s with failIn := l } m p = { resolved s m p with failIn := l } := by
  simp only [resolved, paramEvents, handleEvents_failIn]

@[simp] theorem resolved_ch (s : State) (m p : Word) : (resolved s m p).ch = s.ch := rfl
@[simp] theorem resolved_failIn_eq (s : State) (m p : Word) : (resolved s m p).failIn = s.failIn := rfl

/-! ## Class methods -/

/-- A class method with no notification armed before or after, by what its handler does with the re-resolved
parameter. -/
theorem paramWord_classMethod {s : State} (h : Ready s) {m p : Word} {e : State → State}
    {handler : Word → State → State}
    (hd : e { s with failIn := s.failIn.tail } = classMethod m p handler { s with failIn := s.failIn.tail })
    {f : Channel → Channel} (hf : KeepsCounters f) (hn : ∀ x, (f x).notifyArmed = x.notifyArmed) {t : State}
    (he : handler (paramValue s m p) { resolved s m p with failIn := s.failIn.tail }
      = modCh f { t with failIn := s.failIn.tail })
    (hch : t.ch = s.ch) (ht : t.failIn = s.failIn) :
    paramWord p e s = afterParam f t := by
  refine paramWord_record h.1 p hf (g := fun _ => t) ?_ ht
  have hr := resolve_eq m p { s with failIn := s.failIn.tail }
  rw [paramValue_failIn, resolved_failIn] at hr
  rw [hd, classMethod_unarmed]
  · rw [hr]; exact he
  · rw [hr, he, ch_modCh, hn]
    show t.ch.notifyArmed = false
    rw [hch]; exact h.2

/-- A class method that stores its parameter. -/
theorem paramWord_store {s : State} (h : Ready s) {m p : Word} {e : State → State} {f : Word → Channel → Channel}
    (hd : e { s with failIn := s.failIn.tail }
      = classMethod m p (fun q => modCh (f q)) { s with failIn := s.failIn.tail })
    (hf : ∀ q, KeepsCounters (f q)) (hn : ∀ q x, (f q x).notifyArmed = x.notifyArmed) :
    paramWord p e s = afterParam (f (paramValue s m p)) (resolved s m p) :=
  paramWord_classMethod h hd (hf _) (hn _) rfl rfl rfl

/-- A class method that writes device memory and reports it. -/
theorem paramWord_draw {s : State} (h : Ready s) {m p : Word} {e : State → State} {handler : Word → State → State}
    (hd : e { s with failIn := s.failIn.tail } = classMethod m p handler { s with failIn := s.failIn.tail })
    {X : Memory} {D : List DirtyRec}
    (he : handler (paramValue s m p) { resolved s m p with failIn := s.failIn.tail }
      = { resolved s m p with failIn := s.failIn.tail, dev := X, dirty := D }) :
    paramWord p e s = afterParam id { resolved s m p with dev := X, dirty := D } :=
  paramWord_classMethod h hd keepsCounters_id (fun _ => rfl) (t := { resolved s m p with dev := X, dirty := D })
    (by rw [he]; exact (modCh_id _).symm) rfl rfl

end Sys2Proof.Machine
end

