-- ==== Sys2Proof/Laws/Paint.lean ====
section
/-! SUPPORT. Double loops that write the elements of a rectangle of a plane: the fills, the upload, the clear; and the
copies, whose rounds read what no earlier round wrote. -/
namespace Sys2Proof.Machine

open Sys2Proof

/-- Row-major double loops of writes: see `loop_writes`. A round may count on the bytes that no round before it
wrote. -/
theorem loop2_writes {f : Nat → Nat → State → State} {s : State} {G : State → Prop} {B : Nat → Nat → Nat → Prop}
    {val : Nat → Byte} (h w : Nat)
    (hf : ∀ j i u, j < h → i < w → G u →
      (∀ a, (∀ j' i', i' < w → j' < j ∨ j' = j ∧ i' < i → ¬ B j' i' a) → getByte u.dev a = getByte s.dev a) →
      G (f j i u) ∧ (∀ a, B j i a → getByte (f j i u).dev a = val a)
        ∧ ∀ a, ¬ B j i a → getByte (f j i u).dev a = getByte u.dev a)
    (hs : G s) :
    let t := loop h (fun j => loop w (f j)) s
    G t ∧ (∀ a, (∃ j i, j < h ∧ i < w ∧ B j i a) → getByte t.dev a = val a)
      ∧ ∀ a, (∀ j i, j < h → i < w → ¬ B j i a) → getByte t.dev a = getByte s.dev a := by
  intro t
  have row := loop_writes (f := fun j => loop w (f j)) (s := s) (G := G)
    (B := fun j a => ∃ i, i < w ∧ B j i a) (val := val) h ?_ hs
  · obtain ⟨g, h1, h2⟩ := row
    exact ⟨g, fun a ⟨j, i, hj, hi, hb⟩ => h1 a ⟨j, hj, i, hi, hb⟩,
      fun a ha => h2 a (fun j hj ⟨i, hi, hb⟩ => ha j i hj hi hb)⟩
  · intro j u hj hu hr
    have cell := loop_writes (f := f j) (s := u) (G := G) (B := B j) (val := val) w
      (fun i v hi hv hr' => hf j i v hj hi hv ?_) hu
    · obtain ⟨g, h1, h2⟩ := cell
      exact ⟨g, fun a hb => h1 a hb, fun a hb => h2 a (fun i hi hb' => hb ⟨i, hi, hb'⟩)⟩
    · intro a ha
      rw [hr' a (fun k hk => ha j k (by omega) (.inr ⟨rfl, hk⟩)),
        hr a (fun k hk ⟨i', hi', hb⟩ => ha k i' hi' (.inl hk) hb)]

/-- A loop whose rounds write elements of a plane: round `(j, i)` writes element `(x0 + i, y0 + j)` where `sel` says
so, and is else nothing. -/
theorem plane_paint {f : Nat → Nat → State → State} {s : State} {obj ofs : Word} {pitch b x0 y0 w h : Nat}
    {sel : Nat → Nat → Bool} {v : Nat → Nat → Word} (hw : s.dev.wf = true) (hb : 0 < b)
    (hp : PlaneOk s obj ofs pitch b x0 y0 w h)
    (hf : ∀ j i u, j < h → i < w → SameBut s obj u →
      f j i u = if sel i j = true then dmaWrite obj (offset ofs ((y0 + j) * pitch + (x0 + i) * b)) b (v i j) u else u) :
    let t := loop h (fun j => loop w (f j)) s
    SameBut s obj t ∧ Painted s t obj ofs pitch b x0 y0 w h sel (fun i j k => byteOf (v i j).toNat k) := by
  intro t
  obtain ⟨hl, he, hpi, hd⟩ := hp
  let B (j i a : Nat) : Prop := sel i j = true ∧ cellBytes s obj ofs pitch b (x0 + i) (y0 + j) a
  -- the value of a byte: that of the one element it belongs to
  have hval : ∃ val : Nat → Byte, ∀ j i a, j < h → i < w → B j i a →
      val a = byteOf (v i j).toNat (a - elemAddr s obj ofs pitch b (x0 + i) (y0 + j)) := by
    classical
    refine ⟨fun a => if hx : ∃ q : Nat × Nat, q.1 < h ∧ q.2 < w ∧ B q.1 q.2 a then
      byteOf (v hx.choose.2 hx.choose.1).toNat
        (a - elemAddr s obj ofs pitch b (x0 + hx.choose.2) (y0 + hx.choose.1)) else 0, fun j i a hj hi hB => ?_⟩
    have hx : ∃ q : Nat × Nat, q.1 < h ∧ q.2 < w ∧ B q.1 q.2 a := ⟨(j, i), hj, hi, hB⟩
    simp only [dif_pos hx]
    obtain ⟨c1, c2, c3⟩ := hx.choose_spec
    obtain ⟨e1, e2⟩ := cell_unique hpi c2 c1 hi hj c3.2 hB.2
    rw [e1, e2]
  obtain ⟨val, hval⟩ := hval
  have all := loop2_writes (f := f) (s := s) (G := SameBut s obj) (B := B) (val := val) h w ?_ (sameBut_refl hw obj)
  · obtain ⟨g, h1, h2⟩ := all
    refine ⟨g, fun i j k hi hj hk hs => ?_, fun a ha => ?_⟩
    · have hB : B j i (elemAddr s obj ofs pitch b (x0 + i) (y0 + j) + k) :=
        ⟨hs, Nat.le_add_right _ _, by omega⟩
      rw [h1 _ ⟨j, i, hj, hi, hB⟩, hval j i _ hj hi hB, Nat.add_sub_cancel_left]
    · refine h2 a (fun j i hj hi hB => ?_)
      have := hB.2.1
      have := hB.2.2
      exact ha i j (a - elemAddr s obj ofs pitch b (x0 + i) (y0 + j)) hi hj (by omega) hB.1 (by omega)
  · intro j i u hj hi hu _
    rw [hf j i u hj hi hu]
    by_cases hs : sel i j = true
    · rw [if_pos hs]
      obtain ⟨b1, b2⟩ := elemAddr_bounds (s := s) (obj := obj) (ofs := ofs) (pitch := pitch) (b := b) (x0 := x0)
        (y0 := y0) hi hj
      obtain ⟨c1, c2, c3⟩ := cell_write (v := v i j) (ofs := ofs) (pitch := pitch) (b := b)
        (x := x0 + i) (y := y0 + j) hl hu (by omega) hb (by omega)
      refine ⟨c1, fun a hB => ?_, fun a hB => c3 a (fun hc => hB ⟨hs, hc⟩)⟩
      have := hB.2.1
      have := hB.2.2
      rw [hval j i a hj hi hB, ← c2 (a - elemAddr s obj ofs pitch b (x0 + i) (y0 + j)) (by omega)]
      congr 1; omega
    · rw [if_neg hs]
      exact ⟨hu, fun a hB => absurd hB.1 hs, fun _ _ => rfl⟩

/-- The low bytes of a masked word. -/
theorem byteOf_byteMask (v : Word) {b k : Nat} (hb : b ≤ 4) (hk : k < b) :
    byteOf (v &&& byteMask b).toNat k = byteOf v.toNat k := by
  apply BitVec.eq_of_toNat_eq
  rw [byteOf_toNat, byteOf_toNat, byteMask, and_mask_toNat _ _ (by omega)]
  have : b = 1 ∨ b = 2 ∨ b = 3 ∨ b = 4 := by omega
  rcases this with rfl | rfl | rfl | rfl <;> interval_cases k <;> omega

/-! ## Copies -/

/-- The `k`-th position of a scan lies in range, and every position is scanned. -/
theorem scanPos_lt (r : Bool) {n k : Nat} (h : k < n) : scanPos r n k < n := by
  unfold scanPos; split <;> omega

theorem scanPos_scanPos (r : Bool) {n k : Nat} (h : k < n) : scanPos r n (scanPos r n k) = k := by
  unfold scanPos; split <;> omega

/-- A loop whose rounds copy elements of one plane to another, in scan order: where no round reads what an earlier
round wrote, every element of the destination takes the value its source had before the loop. `g` is what is done to
the value on the way. -/
theorem plane_copy {f : Nat → Nat → State → State} {s : State} {src sofs dst dofs : Word}
    {sp dp b sx sy dx dy w h : Nat} {xr yr : Bool} {g : Word → Word} (hw : s.dev.wf = true) (hb : 0 < b) (hb4 : b ≤ 4)
    (hg : ∀ v k, k < b → byteOf (g v).toNat k = byteOf v.toNat k)
    (hp : PlaneOk s dst dofs dp b dx dy w h) (hsl : LinearDev s src)
    (hse : ∀ i j, i < w → j < h → elemAddr s src sofs sp b (sx + i) (sy + j) + b ≤ s.cfg.vramSize)
    (hsd : src.toNat + 12 ≤ elemAddr s dst dofs dp b dx dy ∨ elemAddr s dst dofs dp b (dx + w) (dy + h) ≤ src.toNat)
    (hord : ∀ j i j' i' a, j < h → i < w → i' < w → j' < j ∨ j' = j ∧ i' < i →
      cellBytes s src sofs sp b (sx + scanPos xr w i) (sy + scanPos yr h j) a →
      ¬ cellBytes s dst dofs dp b (dx + scanPos xr w i') (dy + scanPos yr h j') a)
    (hf : ∀ j i u, j < h → i < w → SameBut s dst u →
      let r := dmaRead src (offset sofs ((sy + scanPos yr h j) * sp + (sx + scanPos xr w i) * b)) b u
      f j i u = dmaWrite dst (offset dofs ((dy + scanPos yr h j) * dp + (dx + scanPos xr w i) * b)) b (g r.1) r.2) :
    let t := loop h (fun j => loop w (f j)) s
    SameBut s dst t ∧ Painted s t dst dofs dp b dx dy w h (fun _ _ => true)
      (fun i j k => getByte s.dev (elemAddr s src sofs sp b (sx + i) (sy + j) + k)) := by
  intro t
  obtain ⟨hl, he, hpi, hd⟩ := hp
  let S (j i : Nat) : Nat := elemAddr s src sofs sp b (sx + scanPos xr w i) (sy + scanPos yr h j)
  let D (j i : Nat) : Nat := elemAddr s dst dofs dp b (dx + scanPos xr w i) (dy + scanPos yr h j)
  let B (j i a : Nat) : Prop := cellBytes s dst dofs dp b (dx + scanPos xr w i) (dy + scanPos yr h j) a
  have hval : ∃ val : Nat → Byte, ∀ j i a, j < h → i < w → B j i a → val a = getByte s.dev (S j i + (a - D j i)) := by
    classical
    refine ⟨fun a => if hx : ∃ q : Nat × Nat, q.1 < h ∧ q.2 < w ∧ B q.1 q.2 a then
      getByte s.dev (S hx.choose.1 hx.choose.2 + (a - D hx.choose.1 hx.choose.2)) else 0, fun j i a hj hi hB => ?_⟩
    have hx : ∃ q : Nat × Nat, q.1 < h ∧ q.2 < w ∧ B q.1 q.2 a := ⟨(j, i), hj, hi, hB⟩
    simp only [dif_pos hx]
    obtain ⟨c1, c2, c3⟩ := hx.choose_spec
    obtain ⟨e1, e2⟩ := cell_unique hpi (scanPos_lt xr c2) (scanPos_lt yr c1) (scanPos_lt xr hi) (scanPos_lt yr hj)
      c3 hB
    have e1 := congrArg (scanPos xr w) e1
    have e2 := congrArg (scanPos yr h) e2
    rw [scanPos_scanPos xr c2, scanPos_scanPos xr hi] at e1
    rw [scanPos_scanPos yr c1, scanPos_scanPos yr hj] at e2
    rw [e1, e2]
  obtain ⟨val, hval⟩ := hval
  have all := loop2_writes (f := f) (s := s) (G := fun u => SameBut s dst u ∧ SameBut s src u) (B := B) (val := val) h w
    ?_ ⟨sameBut_refl hw dst, sameBut_refl hw src⟩
  · obtain ⟨g, h1, h2⟩ := all
    refine ⟨g.1, fun i j k hi hj hk _ => ?_, fun a ha => ?_⟩
    · have hB : B (scanPos yr h j) (scanPos xr w i) (elemAddr s dst dofs dp b (dx + i) (dy + j) + k) := by
        simp only [B, cellBytes, scanPos_scanPos xr hi, scanPos_scanPos yr hj]; omega
      rw [h1 _ ⟨_, _, scanPos_lt yr hj, scanPos_lt xr hi, hB⟩, hval _ _ _ (scanPos_lt yr hj) (scanPos_lt xr hi) hB]
      simp only [S, D, scanPos_scanPos xr hi, scanPos_scanPos yr hj, Nat.add_sub_cancel_left]
    · refine h2 a (fun j i hj hi hB => ?_)
      have := hB.1
      have := hB.2
      exact ha (scanPos xr w i) (scanPos yr h j) (a - D j i) (scanPos_lt xr hi) (scanPos_lt yr hj)
        (by simp only [D]; omega) rfl (by simp only [D]; omega)
  · intro j i u hj hi hu hr
    have hi' := scanPos_lt xr hi
    have hj' := scanPos_lt yr hj
    obtain ⟨b1, b2⟩ := elemAddr_bounds (s := s) (obj := dst) (ofs := dofs) (pitch := dp) (b := b) (x0 := dx)
      (y0 := dy) hi' hj'
    obtain ⟨v, hv, hvb⟩ := cell_read (ofs := sofs) (pitch := sp) (b := b) (x := sx + scanPos xr w i)
      (y := sy + scanPos yr h j) hsl hu.2 (hse _ _ hi' hj') hb hb4 (fun k hk => hr _ (fun j' i' hi2 hlt =>
        hord j i j' i' _ hj hi hi2 hlt ⟨Nat.le_add_right _ _, by omega⟩))
    rw [hf j i u hj hi hu.1]
    simp only [hv]
    obtain ⟨c1, c2, c3⟩ := cell_write (v := g v) (ofs := dofs) (pitch := dp) (b := b)
      (x := dx + scanPos xr w i) (y := dy + scanPos yr h j) hl hu.1 (by omega) hb (by omega)
    refine ⟨⟨c1, c1.1, c1.2.1, fun a k1 k2 => ?_⟩, fun a hB => ?_, fun a hB => c3 a hB⟩
    · rw [c3 a (by unfold cellBytes; omega)]; exact hu.2.2.2 a k1 k2
    · have := hB.1
      have := hB.2
      rw [hval j i a hj hi hB, ← hvb (a - D j i) (by simp only [D]; omega), ← hg v (a - D j i) (by simp only [D]; omega),
        ← c2 (a - D j i) (by simp only [D]; omega)]
      congr 1; simp only [D]; omega

end Sys2Proof.Machine
end

