-- ==== Sys2Proof/Laws/Rows.lean ====
section
/-! SUPPORT. The rows of the opcode table: which row a word or a method number selects, and that no two rows of one
table overlap. -/
namespace Sys2Proof

/-- Decoding the bytes of a word is decoding the word (R71, R120). -/
theorem decodeBytes_word (slot : Slot) (w : Word) (rest : List Byte) :
    decodeBytes slot (wordBytes w ++ rest) = .ok (decodeWord slot w, rest) := by
  simp only [wordBytes, List.cons_append, List.nil_append, decodeBytes, wordOfBytes_byteOf]

theorem Word.fits_iff (mask pat w : Word) : Word.fits mask pat w = true ↔ w &&& mask = pat := by simp [Word.fits]

/-- A mask within a mask whose result is known. -/
theorem and_within {w a b c : Word} (h : w &&& a = b) : w &&& (a &&& c) = b &&& c := by
  rw [← BitVec.and_assoc, h]

/-- What a row selection found is built by a row of the list that the method number hits (R133). -/
theorem selectRow_some {rows : List MethodRow} {m p : Word} {i : Instr} (h : selectRow rows m p = some i) :
    m.toNat < 0x800 ∧ ∃ r ∈ rows, r.hit (m.setWidth 11) = true ∧ i = r.build (m.setWidth 11) p := by
  unfold selectRow at h
  split at h
  · rename_i hm
    simp only [Option.map_eq_some_iff] at h
    obtain ⟨r, hr, rfl⟩ := h
    exact ⟨hm, r, List.mem_of_find?_eq_some hr, by simpa using List.find?_some hr, rfl⟩
  · exact absurd h (by simp)

/-- A method number that hits no row of a list, or lies at or above `0x800`, selects none. -/
theorem selectRow_none {rows : List MethodRow} {m p : Word}
    (h : m.toNat < 0x800 → ∀ r ∈ rows, r.hit (m.setWidth 11) = false) : selectRow rows m p = none := by
  unfold selectRow
  split
  · rename_i hm
    rw [Option.map_eq_none_iff, List.find?_eq_none]
    intro r hr
    rw [h hm r hr]
    decide
  · rfl

/-- Whether one method number could hit both rows: their patterns agree on the bits that both masks test. -/
def MethodRow.overlaps (r q : MethodRow) : Bool := (r.pat ^^^ q.pat) &&& (r.mask &&& q.mask) == 0

/-- No two rows of a table overlap (R133): no row shadows another. -/
theorem rows_disjoint : ∀ rows ∈ [globalRows, graphicsRows, clipRows, ropRows, pattRows, surfRows, gdiRows, ifcRows,
    blitRows, m2mfRows, d3dRows], rows.Pairwise (fun r q => r.overlaps q = false) := by
  decide

end Sys2Proof
end

