-- ==== Sys2Proof/Tests/Slice0.lean ====
section
/-! SUPPORT. Tests: terms that well-formedness refuses, words written out bit by bit from 30_encoding.md and
spec/opcode_table.json, single steps with the results 95_test_vectors.md gives or the cited rule gives by hand, and for
every statement with hypotheses a state and operands that meet them. -/
namespace Sys2Proof.Tests

open Sys2Proof Sys2Proof.Machine

-- One theorem at a time: a `decide +kernel` waits for every theorem before it, and each one that waits holds a thread.
set_option Elab.async false

/-! ## Well-formedness: one refused term for each check -/

theorem test_wf_refuses_control_words :
    (Instr.jmpl 0x00000102).wf = false ∧ (Instr.jmpl 0x20000000).wf = false ∧ (Instr.jmp 0x101).wf = false
    ∧ (Instr.call 0x102).wf = false ∧ (Instr.badLow11 0x2).wf = false ∧ (Instr.badB31 0x00000000).wf = false
    ∧ (Instr.badB3029 0x20000000).wf = false ∧ (Instr.badB16 0x80010000).wf = false
    ∧ (Instr.badB17 0x00020000).wf = false ∧ (Instr.badB17 0x00030000).wf = false := by decide

theorem test_wf_refuses_method_numbers :
    (Instr.globalUndef002 0x004 0).wf = false ∧ (Instr.globalUndef004 0x008 0).wf = false
    ∧ (Instr.globalUndef008 0x010 0).wf = false ∧ (Instr.globalUndef010 0x014 0).wf = false
    ∧ (Instr.globalUndef016 0x015 0).wf = false ∧ (Instr.globalUndef018 0x020 0).wf = false
    ∧ (Instr.globalUndef020 0x040 0).wf = false ∧ (Instr.ifcData100 0x200 0).wf = false
    ∧ (Instr.ifcData200 0x400 0).wf = false ∧ (Instr.ifcData400 0x3FF 0).wf = false := by decide

theorem test_wf_accepts_boundaries :
    (Instr.jmpl 0x1FFFFFFC).wf = true ∧ (Instr.jmp 0xFFFFFFFC).wf = true ∧ (Instr.badB17 0x00020004).wf = true
    ∧ (Instr.globalUndef020 0x03F 0).wf = true ∧ (Instr.ifcData400 0x7FF 0).wf = true := by decide

/-! ## Decoding: words written out from the encodings -/

/-- R122 to R126 with the vectors of 95_test_vectors.md 2.3; the fields of a header are, from bit 31 down: 0, `ni`, 0,
`count` (11), 00, `subc` (3), `mthd` (11), 00. -/
theorem test_decode_control_words :
    decodeWord .control 0b001_00000000000000000000100000000 = .jmpl 0x100
    ∧ decodeWord .control 0b001_11111111111111111111111111100 = .jmpl 0x1FFFFFFC
    ∧ decodeWord .control 0b111111111111111111111111111111_01 = .jmp 0xFFFFFFFC
    ∧ decodeWord .control 0x20000001 = .jmp 0x20000000
    ∧ decodeWord .control 0b000000000000000000000001000000_10 = .call 0x100
    ∧ decodeWord .control 0b0000000000000010_0000000000000000 = .ret
    ∧ decodeWord .control 0b0_0_0_00000000010_00_010_00010000000_00 = .hdr 2 0x080 2
    ∧ decodeWord .control 0b0_1_0_11111111111_00_111_11111111111_00 = .hdrNi 7 0x7FF 0x7FF
    ∧ decodeWord .control 0 = .hdr 0 0 0
    ∧ decodeWord .control 0x00102300 = .hdr 1 0x0C0 4 := by decide

/-- R127 in the five rows of R133, with the malformed words of 95_test_vectors.md 2.3. -/
theorem test_decode_malformed_words :
    decodeWord .control 0x20000003 = .badLow11 0x20000003
    ∧ decodeWord .control 0b1_0000000000000000000000000000000 = .badB31 0x80000000
    ∧ decodeWord .control 0xA0000000 = .badB31 0xA0000000
    ∧ decodeWord .control 0b011_00000000000000000000000000000 = .badB3029 0x60000000
    ∧ decodeWord .control 0x00010000 = .badB16 0x00010000
    ∧ decodeWord .control 0x00030000 = .badB16 0x00030000
    ∧ decodeWord .control 0x00020004 = .badB17 0x00020004
    ∧ decodeWord .control 0x40020000 = .badB17 0x40020000 := by decide

/-- R129: in parameter mode a word that looks like a jump or a return is a parameter. -/
theorem test_decode_parameters_are_data :
    decodeWord (.param .software 0x100) 0x00020000 = .data 0x00020000
    ∧ decodeWord (.param (.graphics none) 0x0C0) 0x00000101 = .data 0x00000101
    ∧ decodeWord (.param (.graphics (some .ifc)) 0x800) 2 = .data 2
    ∧ decodeWord (.param .unknownEngine 0x041) 3 = .data 3 := by decide

/-- The bytes of a word in memory are little-endian (R71, R120); the rest of the bytes is left. -/
theorem test_decode_bytes :
    decodeBytes .control [0x00, 0x42, 0x08, 0x40, 0xAA] = .ok (.hdrNi 2 0x080 2, [0xAA])
    ∧ decodeBytes .control [0x00, 0x42, 0x08] = .error .fewerThanFourBytes := by decide

/-- Channel-global methods (R182, R184, R185), method numbers in 11 bits as the opcode table gives them. -/
theorem test_decode_global_methods :
    decodeTableWord 16 0b00000000000 = some (.bind 0) ∧ decodeTableWord 16 0b00000000001 = some (.globalUndef001 0)
    ∧ decodeTableWord 16 0b00000000011 = some (.globalUndef002 0x003 0)
    ∧ decodeTableWord 16 0b00000000101 = some (.globalUndef004 0x005 0)
    ∧ decodeTableWord 16 0b00000001111 = some (.globalUndef008 0x00F 0)
    ∧ decodeTableWord 16 0b00000010011 = some (.globalUndef010 0x013 0)
    ∧ decodeTableWord 16 0b00000010100 = some (.refCnt 0)
    ∧ decodeTableWord 16 0b00000010101 = some (.globalUndef015 0)
    ∧ decodeTableWord 16 0b00000010111 = some (.globalUndef016 0x017 0)
    ∧ decodeTableWord 16 0b00000011000 = some (.globalUndef018 0x018 0)
    ∧ decodeTableWord 16 0b00000111111 = some (.globalUndef020 0x03F 0)
    ∧ decodeTableWord 16 0b00001000001 = some (.notify 0)
    ∧ decodeTableWord 16 0b00001100000 = some (.setNotifier 0) := by decide

/-- The state-only classes (R211 to R229). -/
theorem test_decode_state_classes :
    decodeWord (.param (.graphics (some .clip)) 0b00011000000) 5 = .clipPoint 5
    ∧ decodeWord (.param (.graphics (some .clip)) 0b00011000001) 5 = .clipSize 5
    ∧ decodeWord (.param (.graphics (some .rop)) 0b00011000000) 5 = .rop 5
    ∧ decodeWord (.param (.graphics (some .patt)) 0b00011000100) 5 = .pattColor0 5
    ∧ decodeWord (.param (.graphics (some .patt)) 0b00011000101) 5 = .pattColor1 5
    ∧ decodeWord (.param (.graphics (some .patt)) 0b00011000110) 5 = .pattMono0 5
    ∧ decodeWord (.param (.graphics (some .patt)) 0b00011000111) 5 = .pattMono1 5
    ∧ decodeWord (.param (.graphics (some .patt)) 0b00100001111) 5 = .pattIdx 15 5
    ∧ decodeWord (.param (.graphics (some .surf2d)) 0b00001100001) 5 = .surfDmaSrc 5
    ∧ decodeWord (.param (.graphics (some .surf2d)) 0b00001100010) 5 = .surfDmaDst 5
    ∧ decodeWord (.param (.graphics (some .surf2d)) 0b00011000000) 5 = .surfFormat 5
    ∧ decodeWord (.param (.graphics (some .surf2d)) 0b00011000001) 5 = .surfPitch 5
    ∧ decodeWord (.param (.graphics (some .surf2d)) 0b00011000010) 5 = .surfOfsSrc 5
    ∧ decodeWord (.param (.graphics (some .surf2d)) 0b00011000011) 5 = .surfOfsDst 5 := by decide

/-- The fill, upload and block-copy classes (R252 to R274); the index of a rectangle is in bits 5 to 1. -/
theorem test_decode_raster_classes :
    decodeWord (.param (.graphics (some .gdi)) 0b00011111111) 5 = .gdiColorA 5
    ∧ decodeWord (.param (.graphics (some .gdi)) 0b00100000010) 5 = .gdiUnclippedPoint 1 5
    ∧ decodeWord (.param (.graphics (some .gdi)) 0b00100111111) 5 = .gdiUnclippedSize 31 5
    ∧ decodeWord (.param (.graphics (some .gdi)) 0b00101111101) 5 = .gdiClipPoint0 5
    ∧ decodeWord (.param (.graphics (some .gdi)) 0b00101111110) 5 = .gdiClipPoint1 5
    ∧ decodeWord (.param (.graphics (some .gdi)) 0b00101111111) 5 = .gdiColorB 5
    ∧ decodeWord (.param (.graphics (some .gdi)) 0b00110000100) 5 = .gdiClippedPoint0 2 5
    ∧ decodeWord (.param (.graphics (some .gdi)) 0b00110000101) 5 = .gdiClippedPoint1 2 5
    ∧ decodeWord (.param (.graphics (some .ifc)) 0b00011000001) 5 = .ifcPoint 5
    ∧ decodeWord (.param (.graphics (some .ifc)) 0b00011000010) 5 = .ifcSizeOut 5
    ∧ decodeWord (.param (.graphics (some .ifc)) 0b00011000011) 5 = .ifcSizeIn 5
    ∧ decodeWord (.param (.graphics (some .ifc)) 0b00111111111) 5 = .ifcData100 0x1FF 5
    ∧ decodeWord (.param (.graphics (some .ifc)) 0b01000000000) 5 = .ifcData200 0x200 5
    ∧ decodeWord (.param (.graphics (some .ifc)) 0b11111111111) 5 = .ifcData400 0x7FF 5
    ∧ decodeWord (.param (.graphics (some .blit)) 0b00011000000) 5 = .blitPointIn 5
    ∧ decodeWord (.param (.graphics (some .blit)) 0b00011000001) 5 = .blitPointOut 5
    ∧ decodeWord (.param (.graphics (some .blit)) 0b00011000010) 5 = .blitSize 5 := by decide

/-- The memory-to-memory and 3D classes (R277 to R299). -/
theorem test_decode_copy_and_clear_classes :
    decodeWord (.param (.graphics (some .m2mf)) 0b00001100001) 5 = .m2mfDmaIn 5
    ∧ decodeWord (.param (.graphics (some .m2mf)) 0b00001100010) 5 = .m2mfDmaOut 5
    ∧ decodeWord (.param (.graphics (some .m2mf)) 0b00011000011) 5 = .m2mfOfsIn 5
    ∧ decodeWord (.param (.graphics (some .m2mf)) 0b00011000100) 5 = .m2mfOfsOut 5
    ∧ decodeWord (.param (.graphics (some .m2mf)) 0b00011000101) 5 = .m2mfPitchIn 5
    ∧ decodeWord (.param (.graphics (some .m2mf)) 0b00011000110) 5 = .m2mfPitchOut 5
    ∧ decodeWord (.param (.graphics (some .m2mf)) 0b00011000111) 5 = .m2mfLineLen 5
    ∧ decodeWord (.param (.graphics (some .m2mf)) 0b00011001000) 5 = .m2mfLineCount 5
    ∧ decodeWord (.param (.graphics (some .m2mf)) 0b00011001001) 5 = .m2mfFormat 5
    ∧ decodeWord (.param (.graphics (some .m2mf)) 0b00011001010) 5 = .m2mfBufferNotify 5
    ∧ decodeWord (.param (.graphics (some .d3d)) 0b00001100101) 5 = .d3dDmaColor 5
    ∧ decodeWord (.param (.graphics (some .d3d)) 0b00001100110) 5 = .d3dDmaZeta 5
    ∧ decodeWord (.param (.graphics (some .d3d)) 0b00010000010) 5 = .d3dSurfaceFormat 5
    ∧ decodeWord (.param (.graphics (some .d3d)) 0b00010000011) 5 = .d3dSurfacePitch 5
    ∧ decodeWord (.param (.graphics (some .d3d)) 0b00010000100) 5 = .d3dColorOffset 5
    ∧ decodeWord (.param (.graphics (some .d3d)) 0b00010000101) 5 = .d3dZetaOffset 5
    ∧ decodeWord (.param (.graphics (some .d3d)) 0b11101100011) 5 = .d3dZclearValue 5
    ∧ decodeWord (.param (.graphics (some .d3d)) 0b11101100100) 5 = .d3dCclearValue 5
    ∧ decodeWord (.param (.graphics (some .d3d)) 0b11101100101) 5 = .d3dClear 5
    ∧ decodeWord (.param (.graphics (some .d3d)) 0b11101100110) 5 = .d3dClearRectH 5
    ∧ decodeWord (.param (.graphics (some .d3d)) 0b11101100111) 5 = .d3dClearRectV 5 := by decide

/-! ## Small states -/

/-- The state an instruction leaves. -/
def after (i : Instr) (s : State) : State :=
  match exec i s with
  | .next t => t
  | .fault _ => s
  | .refused _ => s

/-- The state a step leaves. -/
def stepped (s : State) : State :=
  match step s with
  | .next t => t
  | .fault _ => s
  | .refused _ => s

/-- Device memory with two objects: at `0x100` a linear one on device memory with base `0x1000`, at `0x200` a linear one
on system memory with base `0x80000000` and adjust `0x010` (the object `SYSO` of 95_test_vectors.md). -/
def twoObjects : Memory :=
  [(0x101, 0x20), (0x109, 0x10), (0x201, 0x20), (0x202, 0x02), (0x203, 0x01), (0x20B, 0x80)]

/-- After reset, with those objects. -/
def base : State := { State.reset with dev := twoObjects }

/-- The current channel changed. -/
def withCh (f : Channel → Channel) : State := modCh f base

/-- A 2D surface of two bytes a pixel and a pitch of 16, source and destination the device object. -/
def surface : SurfState :=
  { srcObj := 0x100, dstObj := 0x100, format := 4, pitch := 0x00100010, ofsSrc := 0, ofsDst := 0 }

/-- The bytes of a range of addresses. -/
def bytesAt (s : State) (a n : Nat) : List Byte := (List.range n).map (fun k => getByte s.dev (a + k))

/-- Bytes given at an address. -/
def poke (a : Nat) (l : List Byte) (s : State) : State :=
  { s with dev := (l.zipIdx).foldl (fun m e => setByte m (a + e.2) e.1) s.dev }

/-! ## Single instructions -/

/-- Jumps, call and return (R154 to R157; 95_test_vectors.md 1.7). -/
theorem test_control_flow :
    (after (.jmpl 0x40) base).live.get = 0x40 ∧ (after (.jmp 0x8) base).live.get = 0x8
    ∧ (let s := after (.call 0x100) { base with live := { base.live with get := 4 } }
       s.live.get = 0x100 ∧ s.ch.subActive = true ∧ s.ch.subReturn = 4
       ∧ (after .ret s).live.get = 4 ∧ (after .ret s).ch.subActive = false
       ∧ (after (.call 0x200) { s with live := { s.live with get := 0x104 } }).events = [.ev5 0 0x100 0x202])
    ∧ (after .ret { base with live := { base.live with get := 0x10 } }).events = [.ev6 0 0xC] := by decide +kernel

/-- Headers (R158; 95_test_vectors.md 2.4 vector 5). -/
theorem test_headers :
    (let x := (after (.hdr 2 0x080 2) base).ch
     x.subc = 2 ∧ x.mthd = 0x080 ∧ x.remaining = 2 ∧ x.ni = false)
    ∧ (let x := (after (.hdrNi 5 0x123 0) base).ch
       x.subc = 5 ∧ x.mthd = 0x123 ∧ x.remaining = 0 ∧ x.ni = true) := by decide +kernel

/-- Malformed words (R159). -/
theorem test_malformed :
    (after (.badLow11 3) { base with live := { base.live with get := 4 } }).events = [.ev1 0 0 3]
    ∧ (after (.badB31 0x80000000) base).events = [.ev1 0 0xFFFFFFFC 0x80000000]
    ∧ (after (.badB3029 0x60000000) base).events = [.ev1 0 0xFFFFFFFC 0x60000000]
    ∧ (after (.badB16 0x00010000) base).events = [.ev1 0 0xFFFFFFFC 0x00010000]
    ∧ (after (.badB17 0x00020004) base).live = base.live := by decide +kernel

/-- A parameter advances the method, or not under `ni`, and the method does not wrap at 2^11 (R160, R38). -/
theorem test_parameter_bookkeeping :
    (let x := (after (.refCnt 9) (withCh fun x => { x with remaining := 2, mthd := 0x014 })).ch
     x.mthd = 0x015 ∧ x.remaining = 1)
    ∧ (let x := (after (.refCnt 9) (withCh fun x => { x with remaining := 2, mthd := 0x014, ni := true })).ch
       x.mthd = 0x014 ∧ x.remaining = 1)
    ∧ (after (.data 0) (withCh fun x => { x with remaining := 1, mthd := 0x7FF })).ch.mthd = 0x800 := by decide +kernel

/-- Channel-global methods (R184, R185; 95_test_vectors.md 2.5 vectors 8 and 9). -/
theorem test_global_methods :
    (after (.refCnt 7) base).live.ref = 7 ∧ (after (.globalUndef001 1) base).events = [.ev10 0 0x001 1]
    ∧ (after (.globalUndef018 0x018 1) base).events = [.ev10 0 0x018 1]
    ∧ (after (.globalUndef020 0x03F 1) base).events = [.ev10 0 0x03F 1]
    ∧ (after (.globalUndef015 5) base).events = [.ev10 0 0x015 5] := by decide +kernel

/-- The hash of 95_test_vectors.md 2.2 (R93). -/
theorem test_hash :
    hashOf 9 0xBEEF0001 0 = 0x02D ∧ hashOf 11 0xBEEF0001 19 = 0x69A ∧ hashOf 12 0x200 31 = 0xD00
    ∧ hashOf 10 0xFFFFFFFF 0 = 0x3FC := by decide +kernel

/-- Context words of both layouts (R92; 95_test_vectors.md 2.2). -/
theorem test_context_words :
    ctxChid (Config.ofLayout .pre) 0x1F05FFFF = 31 ∧ ctxEng (Config.ofLayout .pre) 0x1F05FFFF = 5
    ∧ ctxObj (Config.ofLayout .pre) 0x1F05FFFF = 0x000FFFF0
    ∧ ctxChid (Config.ofLayout .post) 0x01912345 = 3 ∧ ctxEng (Config.ofLayout .post) 0x01912345 = 1
    ∧ ctxObj (Config.ofLayout .post) 0x01912345 = 0x00123450 := by decide +kernel

/-- The hash table at `0x10000` with one entry, handle `0x1001` for the object `0x12300` on engine 1 (the entry `SURF`
of 95_test_vectors.md), and word 1 of that object `0xABCD`. -/
def oneEntry : State :=
  poke 0x10048 [0x01, 0x10, 0, 0, 0x30, 0x12, 0x01, 0] (poke 0x12304 [0xCD, 0xAB]
    { base with ctl := { base.ctl with ramht := 0x100 } })

/-- Binding (R182, R183; 95_test_vectors.md 2.5 vectors 1 and 3). -/
theorem test_bind :
    (after (.bind 0x1001) oneEntry).sc = { object := 0x12300, engine := 1, notifier := 0 }
    ∧ devRead (after (.bind 0x1001) (modSc (fun y => { y with notifier := 0x12200 }) oneEntry)) 0x12304 4 = 0x1220ABCD := by decide +kernel

/-- Handles (R186, R188; 95_test_vectors.md 2.5 vector 10): resolved, or unchanged and logged. The table is searched in
full only where the handle is not there, so a found one is tested here. -/
theorem test_handles :
    (after (.surfDmaDst 0x1001) oneEntry).ch.surf.dstObj = 0x12300
    ∧ (after (.setNotifier 0x1001) oneEntry).sc.notifier = 0x12300
    ∧ (after (.m2mfDmaIn 0x1001) oneEntry).ch.m2mf.srcObj = 0x12300
    ∧ (after (.d3dDmaZeta 0x1001) oneEntry).ch.d3d.zetaObj = 0x12300 := by decide +kernel

/-- The notification step (R192, R193; 95_test_vectors.md 2.5 vector 13): the other fields are fixed, the time is not. -/
theorem test_notify :
    (after (.notify 1) base).ch.notifyArmed = true ∧ (after (.notify 1) base).ch.notifyType = 1
    ∧ (let s := after (.rop 0xCC) (withCh fun x => { x with notifyArmed := true, notifyType := 1,
                                                             sub := x.sub.set 0 ⟨0, 1, 0x100⟩ })
       s.ch.rop = 0xCC ∧ s.ch.notifyArmed = false ∧ s.ctl.grIntr = 1 ∧ s.ctl.grNsource = 1) := by decide +kernel

/-- The software engine (R190) and the unknown engine and class (R189, R191). -/
theorem test_other_targets :
    (let s := after (.data 0xCAFE) (withCh fun x => { x with subc := 3, mthd := 0x100 })
     s.pendq = [⟨0, 3, 0, 0x100, 0xCAFE⟩] ∧ s.ctl.fifoIntr = 1)
    ∧ (after (.data 1) (withCh fun x => { x with mthd := 0x100, sub := x.sub.set 0 ⟨0, 5, 0⟩ })).events
        = [.ev9 0 0 5 0x100 1]
    ∧ (after (.data 7) (poke 0x300 [0x55] (withCh fun x => { x with mthd := 0x100, sub := x.sub.set 0 ⟨0x300, 1, 0⟩ }))).events
        = [.ev3 0 0 0x55 0x100 7]
    ∧ (after (.data 7) (poke 0x300 [0x4A] (withCh fun x => { x with mthd := 0x200, sub := x.sub.set 0 ⟨0x300, 1, 0⟩ }))).events
        = [.ev4 0 0 0x4A 0x200 7] := by decide +kernel

/-- `DATA` on a bound class runs that class's method (R160, R180, R189). -/
theorem test_data_dispatches :
    (after (.data 0x20001) (poke 0x300 [0x19] (withCh fun x => { x with mthd := 0x0C0, sub := x.sub.set 0 ⟨0x300, 1, 0⟩ }))).ch.clip.point
      = 0x20001 := by decide +kernel

/-- A dispatch failure (R161; 95_test_vectors.md 2.4 vectors 10 and 11). -/
theorem test_dispatch_failure :
    (let s := after (.refCnt 0xDEAD) { base with failIn := [.before], tasks := [.drain],
                                                 live := { base.live with get := 8, put := 0xC } }
     s.live.get = 4 ∧ s.live.ref = 0 ∧ s.events = [.ev8 0 4 0xDEAD] ∧ s.tasks = [])
    ∧ (after (.refCnt 0xDEAD) { base with failIn := [.after] }).live.ref = 0xDEAD := by decide +kernel

/-- Stored parameters of the state-only classes (R211 to R229; 95_test_vectors.md 2.6). -/
theorem test_state_classes_store :
    (after (.clipPoint 0x20001) base).ch.clip.point = 0x20001 ∧ (after (.clipSize 0x100020) base).ch.clip.size = 0x100020
    ∧ (after (.rop 0xCC) base).ch.rop = 0xCC ∧ (after (.pattColor0 3) base).ch.patt.color0 = 3
    ∧ (after (.pattColor1 0x00FFFFFF) base).ch.patt.color1 = 0x00FFFFFF
    ∧ (after (.pattMono0 0xAA55AA55) base).ch.patt.mono[0] = 0xAA55AA55
    ∧ (after (.pattMono1 0x55AA55AA) base).ch.patt.mono[1] = 0x55AA55AA
    ∧ (after (.pattIdx 15 0x3F3E3D3C) base).ch.patt.idx[15] = 0x3F3E3D3C
    ∧ (after (.surfFormat 4) base).ch.surf.format = 4 ∧ (after (.surfPitch 0x80008) base).ch.surf.pitch = 0x80008
    ∧ (after (.surfOfsSrc 5) base).ch.surf.ofsSrc = 5 ∧ (after (.surfOfsDst 6) base).ch.surf.ofsDst = 6 := by decide +kernel

/-- Stored parameters of the raster classes (R252 to R258, R262, R272, R273). -/
theorem test_raster_classes_store :
    (after (.gdiColorA 1) base).ch.gdi.color = 1 ∧ (after (.gdiColorB 2) base).ch.gdi.color = 2
    ∧ (after (.gdiUnclippedPoint 31 3) base).ch.gdi.point = 3 ∧ (after (.gdiClipPoint0 4) base).ch.gdi.clip0 = 4
    ∧ (after (.gdiClipPoint1 5) base).ch.gdi.clip1 = 5 ∧ (after (.gdiClippedPoint0 9 6) base).ch.gdi.rect0 = 6
    ∧ (after (.ifcPoint 7) base).ch.ifc.point = 7 ∧ (after (.blitPointIn 8) base).ch.blit.pointIn = 8
    ∧ (after (.blitPointOut 9) base).ch.blit.pointOut = 9 := by decide +kernel

/-- Stored parameters of the copy and 3D classes (R279 to R285, R291 to R299). -/
theorem test_copy_and_clear_classes_store :
    (after (.m2mfOfsIn 1) base).ch.m2mf.ofsIn = 1 ∧ (after (.m2mfOfsOut 2) base).ch.m2mf.ofsOut = 2
    ∧ (after (.m2mfPitchIn 3) base).ch.m2mf.pitchIn = 3 ∧ (after (.m2mfPitchOut 4) base).ch.m2mf.pitchOut = 4
    ∧ (after (.m2mfLineLen 5) base).ch.m2mf.lineLen = 5 ∧ (after (.m2mfLineCount 6) base).ch.m2mf.lineCount = 6
    ∧ (after (.m2mfFormat 7) base).ch.m2mf.format = 7 ∧ (after (.d3dSurfaceFormat 8) base).ch.d3d.format = 8
    ∧ (after (.d3dSurfacePitch 9) base).ch.d3d.pitch = 9 ∧ (after (.d3dColorOffset 10) base).ch.d3d.colorOfs = 10
    ∧ (after (.d3dZetaOffset 11) base).ch.d3d.zetaOfs = 11 ∧ (after (.d3dZclearValue 12) base).ch.d3d.zclear = 12
    ∧ (after (.d3dCclearValue 13) base).ch.d3d.cclear = 13 ∧ (after (.d3dClearRectH 14) base).ch.d3d.rectH = 14
    ∧ (after (.d3dClearRectV 15) base).ch.d3d.rectV = 15 := by decide +kernel

/-- An unclipped fill (R254, R260): point in packing `YX`, x 3, y 1; the formats of 95_test_vectors.md 2.7. -/
theorem test_unclipped_fill :
    (let s := after (.gdiUnclippedSize 0 0x00020001)
        (withCh fun x => { x with surf := surface, gdi := { x.gdi with color := 0xAABBCCDD, point := 0x00030001 } })
     bytesAt s 0x1015 6 = [0, 0xDD, 0xCC, 0xDD, 0xCC, 0] ∧ s.dirty = [.rect 3 1 2 1])
    ∧ (let s := after (.gdiUnclippedSize 0 0x00010001)
        (poke 0x1000 [0xEE, 0xEE, 0xEE, 0xEE, 0xEE] (withCh fun x =>
          { x with surf := { surface with format := 6 }, gdi := { x.gdi with color := 0xAABBCCDD } }))
       bytesAt s 0x1000 5 = [0xDD, 0xCC, 0xBB, 0, 0xEE]) := by decide +kernel

/-- A clipped fill (R259, R260; 95_test_vectors.md 2.7 vectors 2 and 3). -/
theorem test_clipped_fill :
    (let s := after (.gdiClippedPoint1 0 0x00030006)
        (withCh fun x => { x with surf := { surface with format := 1, pitch := 0x00080008 },
                                  gdi := { color := 0x12345678, point := 0, clip0 := 0, clip1 := 0x00020004, rect0 := 0x00010002 } })
     bytesAt s 0x1009 4 = [0, 0x78, 0x78, 0] ∧ s.dirty = [.rect 2 1 4 2])
    ∧ (after (.gdiClippedPoint1 0 0x00020008)
        (withCh fun x => { x with surf := surface, gdi := { x.gdi with rect0 := 0x00050005 } })).dirty = [.rect 5 5 3 0] := by decide +kernel

/-- The last word of an upload (R264, R265, R267; 95_test_vectors.md 2.8 vector 4). -/
theorem test_upload :
    (let s := after (.ifcData100 0x101 0x00040003)
        (withCh fun x => { x with surf := surface, ifc := { x.ifc with state := .streaming, sizeOut := 0x00020003,
                                                                       sizeIn := 0x00020002, buf := [0x00020001], need := 2 } })
     bytesAt s 0x1000 6 = [1, 0, 2, 0, 3, 0] ∧ bytesAt s 0x1010 6 = [3, 0, 4, 0, 0, 0]
       ∧ s.dirty = [.rect 0 0 3 2] ∧ s.ch.ifc.state = .configuring ∧ s.ch.ifc.buf = [])
    ∧ (after (.ifcData400 0x7FF 1) base).events = [.ev11 0 0x7FF 1] := by decide +kernel

/-- Sizes of an upload (R263, R264; 95_test_vectors.md 2.8 vector 2) and the fast path (vector 6). -/
theorem test_upload_sizes :
    (let s := after (.ifcSizeIn 0x00020004) (withCh fun x => { x with surf := surface })
     s.ch.ifc.state = .streaming ∧ s.ch.ifc.need = 4 ∧ (after (.ifcData200 0x200 1) s).ch.ifc.buf = [1]
       ∧ (after (.ifcSizeOut 0x00010002) s).ch.ifc.state = .configuring)
    ∧ (let s := after (.ifcSizeOut 0x01000100)
          { withCh (fun x => { x with surf := surface, ifc := { x.ifc with point := 0x00010002 } }) with
            cfg := { base.cfg with ifcFastpathSize := some 0x01000100 } }
       s.ch.ifc.state = .fastPath ∧ s.ch.ifc.fastOff = 0x14
         ∧ devRead (after (.ifcData100 0x100 0xAAAAAAAA) s) 0x1014 4 = 0xAAAAAAAA) := by decide +kernel

/-- A block copy onto itself (R274, R275; the first case of 95_test_vectors.md 2.9). -/
theorem test_blit :
    (let s := after (.blitSize 0x00020003)
        (poke 0x1000 [0x40, 0x01, 0x02, 0x03, 0x04, 0x05, 0x06, 0x07, 0x10, 0x11, 0x12, 0x13, 0x14, 0x15, 0x16, 0x17,
                      0x20, 0x21, 0x22, 0x23, 0x24]
          (withCh fun x => { x with surf := { surface with format := 1, pitch := 0x00080008 },
                                    blit := { pointIn := 0, pointOut := 0x00010001 } }))
     bytesAt s 0x1008 8 = [0x10, 0x40, 0x01, 0x02, 0x14, 0x15, 0x16, 0x17]
       ∧ bytesAt s 0x1010 5 = [0x20, 0x10, 0x11, 0x12, 0x24] ∧ s.dirty = [.rect 1 1 3 2]) := by decide +kernel

/-- A copy to system memory (R286 to R288; 95_test_vectors.md 2.10 vector 2). -/
theorem test_memcopy :
    (let s := after (.m2mfBufferNotify 0)
        (poke 0x1000 [0xA0, 0xA1, 0xA2, 0xA3, 0xA4, 0xA5, 0xA6, 0xA7, 0xA8, 0xA9, 0xAA, 0xAB]
          (withCh fun x => { x with m2mf := { x.m2mf with srcObj := 0x100, dstObj := 0x200, ofsIn := 0, ofsOut := 0x20,
                                                          pitchIn := 8, pitchOut := 0xFFFFFFF0, lineLen := 7, lineCount := 2 } }))
     s.sysBus = [.write 0x80000030 4 0xA3A2A1A0, .write 0x80000020 4 0xABAAA9A8] ∧ s.dirty = []) := by decide +kernel

/-- A clear of both planes (R297, R300, R301; 95_test_vectors.md 2.11 vector 3), and one of an empty rectangle. -/
theorem test_clear :
    (let s := after (.d3dClear 0xF3)
        (withCh fun x => { x with d3d := { x.d3d with colorObj := 0x100, zetaObj := 0x100, format := 0x13, pitch := 0x00400040,
                                                      zetaOfs := 0x100, zclear := 0xFFFFFF00, cclear := 0x1234ABCD,
                                                      rectH := 0x00010001, rectV := 0 } })
     bytesAt s 0x1001 4 = [0, 0xCD, 0xAB, 0] ∧ bytesAt s 0x1101 4 = [0, 0, 0xFF, 0] ∧ s.dirty = [.rect 1 0 1 1])
    ∧ (after (.d3dClear 0xF3) (withCh fun x => { x with d3d := { x.d3d with rectH := 0x00010003 } })).dirty
        = [.rect 3 0 0 1] := by decide +kernel

/-! ## Memory, registers, ports -/

/-- Accessors (R73, R74; 95_test_vectors.md 2.1). -/
theorem test_device_memory :
    (let s := devWrite 0x1000 4 0xAABBCCDD base
     devRead s 0x1000 1 = 0xDD ∧ devRead s 0x1002 2 = 0xAABB ∧ devRead s 0x1001 4 = 0x00AABBCC)
    ∧ devRead (devWrite 0xFFFFFC 4 0x11223344 base) 0xFFFFFE 4 = 0
    ∧ devRead (devWrite 0xFFFFFC 4 0x11223344 base) 0xFFFFFE 2 = 0x1122
    ∧ (devWrite 0xFFFFFE 4 0xFFFFFFFF base).dev = base.dev ∧ devRead base 0xFFFFFFFE 4 = 0 := by decide +kernel

/-- Translation, linear and paged (R84; 95_test_vectors.md 1.2, 1.3). -/
theorem test_translation :
    dmaXlate base 0x200 0 = (.sys, 0x80000010) ∧ dmaXlate base 0x200 0x7FFFFFF0 = (.sys, 0)
    ∧ dmaXlate (poke 0x408 [0, 0, 0x18, 0, 0, 0, 0x15, 0] base) 0x400 0xFFF = (.dev, 0x180FFF)
    ∧ dmaXlate (poke 0x408 [0, 0, 0x18, 0, 0, 0, 0x15, 0] base) 0x400 0x1000 = (.dev, 0x150000)
    ∧ dmaXlate base 0x02000000 0x40 = (.dev, 0x40) := by decide +kernel

/-- Lanes of a host write, implemented bits and write-one-to-clear (R322, R326, R328; 95_test_vectors.md 2.13). -/
theorem test_register_writes :
    (let s := stepped (stepped { base with live := { base.live with put := 0x11223344 },
                                           inputs := [.write 0x003242 1 0xBEEF] })
     s.live.put = 0xBEEF3344)
    ∧ (writeWord 0x2210 0xFFFFFFFF 0xFFFFFFFF base).ctl.ramht = 0x000301F0
    ∧ (writeWord 0x2100 1 0xFFFFFFFF { base with ctl := { base.ctl with fifoIntr := 0x101 } }).ctl.fifoIntr = 0x100 := by decide +kernel

/-- The map is the configuration's, and ends at `0xFFFFFF` (R6 `REGMAP`, R320, R332; log entry 19); the first of two
places with one offset is taken (log entry 20). -/
theorem test_configured_map :
    (let cfg := { Config.ofLayout .pre with chApOff := { put := 0x80, get := 0x84, ref := 0x88 }, objApSize := 0x1000 }
     place cfg 0x820080 = .shadow 2 .put ∧ place cfg 0x820040 = .nothing ∧ place cfg 0x701000 = .nothing)
    ∧ place { Config.ofLayout .pre with objApBase := 0xFFF000, objApSize := 0x2000 } 0xFFFFFC = .object 0xFFC
    ∧ place { Config.ofLayout .pre with objApBase := 0xFFF000, objApSize := 0x2000 } 0x1000000 = .nothing
    ∧ place { Config.ofLayout .pre with regMap := [(0x100, .fifoRef), (0x100, .intr)] } 0x100 = .reg .fifoRef
    ∧ place { Config.ofLayout .pre with chApOff := { put := 0x44, get := 0x44, ref := 0x44 } } 0x800044 = .shadow 0 .put := by
  decide +kernel

/-- The interrupt word and line (R329, R374; 95_test_vectors.md 2.14). -/
theorem test_interrupts :
    (let r : Ctl := { base.ctl with busIntr := 0x10, busIntrEn := 0x10 }
     intrWord bitsDefault r = 0x10000000 ∧ irqLine bitsDefault r = false ∧ irqLine bitsDefault { r with intrEn := 1 } = true)
    ∧ intrWord bitsDefault { base.ctl with fifoIntr := 1, fifoIntrEn := 1, grIntr := 1, grIntrEn := 1 } = 0x1100 := by decide +kernel

/-- A context switch (R311; 95_test_vectors.md 2.12), and the put write of a channel that is not current (R335). -/
theorem test_context_switch :
    (let s := contextSwitch 3 (poke 0x110C0 [0x10] { base with
        ctl := { base.ctl with ramfc := 0x110 },
        live := { put := 0x40, get := 0x40, ref := 7, dmaInstance := 0x1230, semaphore := 0x55 } })
     devRead s 0x11000 4 = 0x40 ∧ devRead s 0x11008 4 = 7 ∧ devRead s 0x1102C 4 = 0x55
       ∧ s.live = { put := 0x10, get := 0, ref := 0, dmaInstance := 0, semaphore := 0 } ∧ s.ctl.curchan = 3)
    ∧ devRead (writeWord 0x830040 0x10 0xFFFFFFFF { base with ctl := { base.ctl with ramfc := 0x110 } }) 0x110C0 4 = 0x10 := by decide +kernel

/-- The step fetches, decodes and runs what is placed for it. -/
theorem test_fetch :
    (stepped (State.reset.withFetchWord 32 0x20000100)).live.get = 0x100
    ∧ (stepped (State.reset.withFetchWord 16 0x014)).live.get = 4
    ∧ (stepped (State.reset.withFetchWord 16 0x0C7)).ch.mthd = 0x0C8
    ∧ (stepped (stepped (State.reset.withFetchWord 16 0x0C7))).tasks = [] := by decide +kernel

/-! ## Hypotheses that can be met: for each statement with hypotheses, states and operands that meet them, one for each
clause -/

/-- `DecodeOfEncode`. -/
theorem witness_decode_of_encode :
    (Instr.jmpl 0x1FFFFFFC).wf = true ∧ (Instr.ifcData400 0x7FF 1).wf = true ∧ (Instr.badB17 0x00020004).wf = true := by
  decide

/-- Inside a drain, the pushbuffer a linear object with base `0x1000` in device memory, or the one in system memory. -/
def draining (dma get put : Word) : State :=
  { base with tasks := [.drain], live := { base.live with dmaInstance := dma, get := get, put := put } }

/-- `StepRunsTheDecodedWord`: the drain is done; the word lies in device memory (the last one there), does not, lies in
system memory. -/
theorem witness_step :
    (draining 0x10 8 8).live.get = (draining 0x10 8 8).live.put
    ∧ (let s := draining 0x10 0xFFEFFC 0
       let x := dmaXlate s (s.live.dmaInstance <<< 4) s.live.get
       s.tasks = [.drain] ∧ s.live.get ≠ s.live.put ∧ x.1 = .dev ∧ x.2.toNat + 4 ≤ s.cfg.vramSize
         ∧ x.2.toNat + 4 = 0x01000000
         ∧ decodeBytes s.slot [getByte s.dev x.2.toNat, getByte s.dev (x.2.toNat + 1), getByte s.dev (x.2.toNat + 2),
              getByte s.dev (x.2.toNat + 3)] = .ok (.hdr 0 0 0, []))
    ∧ (let s := draining 0x10 0xFFEFFD 0
       let x := dmaXlate s (s.live.dmaInstance <<< 4) s.live.get
       s.live.get ≠ s.live.put ∧ x.1 = .dev ∧ s.cfg.vramSize < x.2.toNat + 4)
    ∧ (let s := draining 0x20 0 4
       s.live.get ≠ s.live.put ∧ (dmaXlate s (s.live.dmaInstance <<< 4) s.live.get).1 = .sys) := by decide +kernel

/-- A channel whose current subchannel is bound to the object `0x300` of class id `id` on engine `e`, at method `m`. -/
def bound (id : Byte) (e m : Word) : State :=
  poke 0x300 [id] (withCh fun x => { x with remaining := 1, mthd := m, sub := x.sub.set 0 ⟨0x300, e, 0⟩ })

/-- A device of the family with REF_CNT at `0x020`, CLIP_POINT at `0x0D0` and IFC_DATA from `0x200` on. -/
def renumbered : Config :=
  { Config.ofLayout .pre with mthds := { mthdsDefault with refCnt := 0x020, clipPoint := 0x0D0, ifcData := 0x200 } }

/-- `bound` on that device. -/
def boundThere (id : Byte) (e m : Word) : State := { bound id e m with cfg := renumbered }

/-- `DataRunsTheSelectedRow`: with the default numbers and with others. -/
theorem witness_data_runs :
    (let s := bound 0x19 1 0x0C1
     s.rowNumber = some 0x0C1 ∧ decodeParam s.route 0x0C1 5 = .clipSize 5)
    ∧ (let s := boundThere 0x19 1 0x0D0
       s.rowNumber = some 0x0C0 ∧ decodeParam s.route 0x0C0 5 = .clipPoint 5) := by decide +kernel

/-- `MethodNumbersAreConfigured`: the default numbers; BIND; REF_CNT; the number REF_CNT has in the table and the last
channel-global one, by default and on a device where it lies at `0x041`; the slot of a word with a row and without
one. -/
theorem witness_method_numbers :
    base.cfg.mthds = mthdsDefault ∧ base.ch.mthd = 0
    ∧ (let s := boundThere 0x19 1 0x020
       s.ch.mthd ≠ 0 ∧ s.ch.mthd = s.cfg.mthds.refCnt.setWidth 32 ∧ s.ch.remaining ≠ 0 ∧ s.rowNumber = some 0x014)
    ∧ (let s := boundThere 0x19 1 0x014
       s.ch.mthd ≠ 0 ∧ s.ch.mthd ≠ s.cfg.mthds.refCnt.setWidth 32
         ∧ s.ch.mthd.toNat ≤ s.cfg.mthds.globalLast.toNat ∧ s.ch.remaining ≠ 0 ∧ s.rowNumber = none)
    ∧ (let s := boundThere 0x19 1 0x03F
       s.ch.mthd ≠ 0 ∧ s.ch.mthd ≠ s.cfg.mthds.refCnt.setWidth 32 ∧ s.ch.mthd.toNat ≤ s.cfg.mthds.globalLast.toNat
         ∧ s.rowNumber = some 0x03F)
    ∧ ∀ m ∈ [0x040, 0x041],
        let s : State := { bound 0x19 1 (BitVec.ofNat 32 m) with cfg := { renumbered with mthds := { renumbered.mthds with globalLast := 0x041 } } }
        s.ch.mthd ≠ 0 ∧ s.ch.mthd ≠ s.cfg.mthds.refCnt.setWidth 32 ∧ s.ch.mthd.toNat ≤ s.cfg.mthds.globalLast.toNat
         ∧ s.rowNumber = none := by decide +kernel

/-- `MethodNumbersAreConfigured`: a class method at the first and at the last of its numbers, which no method before it
in the list has. -/
theorem witness_method_numbers_of_class :
    (let n := renumbered.mthds
     let es := n.graphics ++ [{ base := n.ifcPoint, table := 0x0C1 }, { base := n.ifcSizeOut, table := 0x0C2 },
       { base := n.ifcSizeIn, table := 0x0C3 }]
     let e : MthdEntry := { base := n.ifcData, table := 0x100, count := 0x700 }
     (boundThere 0x61 1 0x7FF).route = .graphics (some .ifc)
     ∧ n.onRoute (.graphics (some .ifc)) = es ++ e :: []
     ∧ (∀ m ∈ [0x200, 0x7FF], BitVec.ofNat 32 m ≠ n.refCnt.setWidth 32 ∧ n.globalLast.toNat < m
        ∧ ∀ d ∈ es, 0 < d.step ∧ d.position d.base (BitVec.ofNat 32 m) = none)
     ∧ 0 < e.step ∧ (0 < e.count ∧ (0x200 : Word).toNat = e.base.toNat + e.step * 0 ∧ (0x200 : Word).toNat < 0x800)
     ∧ (0x5FF < e.count ∧ (0x7FF : Word).toNat = e.base.toNat + e.step * 0x5FF ∧ (0x7FF : Word).toNat < 0x800)) := by
  decide +kernel

/-- `MethodNumbersAreConfigured`: a number that no method has, in the device or in the table, from `0x040` on and below
it, above the last channel-global number, and one that only the table has. What has no position is none of a method's numbers (`not_has_of_position`). -/
theorem witness_method_numbers_free :
    (let es := renumbered.mthds.onRoute (.graphics (some .clip))
     (∀ e ∈ es, 0 < e.step ∧ e.position e.base 0x7FF = none ∧ e.position e.table 0x7FF = none)
     ∧ (∀ e ∈ es, 0 < e.step ∧ e.position e.base 0x03F = none ∧ e.position e.table 0x03F = none)
     ∧ ({ renumbered.mthds with globalLast := 0x03E } : Mthds).globalLast.toNat < 0x03F
     ∧ (∀ e ∈ es, 0 < e.step ∧ e.position e.base 0x0C0 = none)
     ∧ ∃ e ∈ es, 0 < e.step ∧ 0 < e.count ∧ (0x0C0 : Word).toNat = e.table.toNat + e.step * 0) := by decide +kernel

/-- Other method numbers (R6 `M_*`): REF_CNT under its own, its table number undefined (R185), a class method under its
own number, the table's number of it unknown (R191), and the number that EV11 records (R265). -/
theorem test_renumbered_methods :
    (after (.data 9) (boundThere 0x19 0 0x020)).live.ref = 9
    ∧ (after (.data 9) (boundThere 0x19 1 0x014)).events = [.ev10 0 0x014 9]
    ∧ (after (.data 9) (boundThere 0x19 1 0x0D0)).ch.clip.point = 9
    ∧ (after (.data 9) (boundThere 0x19 1 0x0C0)).events = [.ev4 0 0 0x19 0x0C0 9]
    ∧ (after (.data 9) (boundThere 0x61 1 0x2FF)).events = [.ev11 0 0x2FF 9] := by decide +kernel

/-- A channel with the surface and both rectangles of a fill. -/
def filling : State :=
  withCh fun x => { x with surf := surface, gdi := { color := 0x1234, point := 0x00030007, clip0 := 0, clip1 := 0x00020004,
                                                     rect0 := 0x00010002 } }

/-- A clear of columns 1 to 3 and rows 0 to 1, with a colour plane and a depth plane. -/
def clearing (format : Word) : State :=
  withCh fun x => { x with d3d := { x.d3d with colorObj := 0x100, zetaObj := 0x100, format := format, pitch := 0x00400040,
                                               zetaOfs := 0x1000, rectH := 0x00030001, rectV := 0x00010000 } }

/-- A device of the family in which what 93_implementation_defined.md part 2 lists lies elsewhere than by default. -/
def reshaped : Config :=
  { Config.ofLayout .pre with
    mthds := { mthdsDefault with globalLast := 0x01F, handleFirst := 0x0C1, handleLast := 0x0C1 }
    packings := { packingsDefault with gdiUnclippedSize := .xy, surfPitch := .yx }
    bits := { bitsDefault with intrFifo := 0, globalEnable := 2, fifoDeferred := 3, grNotify := 5, nsourceNotify := 6,
                               acquire := 31 }
    ramht := { base := { field := ⟨0, 8⟩, shift := 16 }, size := ⟨8, 1⟩ }
    ramfc := { field := ⟨8, 16⟩, shift := 4 }
    bpp := [(0xD, .four), (0xD, .one)]
    maskedFormat := 0xD
    clear := { clearDefault with colorEnable := 1, zetaEnable := 2, span := .count } }

/-- A state on that device. -/
def there (s : State) : State := { s with cfg := reshaped }

/-- Other ranges of method numbers (R6 `M_*`): a handle is one by the device's number (R186), and a number above the last
channel-global one is the route's (R180, R185). -/
theorem test_other_ranges :
    (let s := after (.clipSize 5) (there base)
     s.ch.clip.size = 5 ∧ s.events = [.ev2 5 0])
    ∧ (after (.clipPoint 5) (there base)).events = []
    ∧ (let s := after (.setNotifier 5) (there base)
       s.sc.notifier = 5 ∧ s.events = [])
    ∧ (after (.data 7) (there (bound 0x7B 0 0x01F))).events = [.ev10 0 0x01F 7]
    ∧ (let s := after (.data 7) (there (bound 0x7B 0 0x020))
       s.pendq = [⟨0, 0, 0x7B, 0x020, 7⟩] ∧ s.ctl.fifoIntr = 8) := by decide +kernel

/-- Other fields and bits of the control registers (R6 `REGMAP`, R29 to R36, R326, R374). -/
theorem test_other_register_fields :
    (let s : State := there { base with ctl := { base.ctl with ramht := 0x112, ramfc := 0x00123400 } }
     htBase s = 0x120000 ∧ htBits s = 10 ∧ fcBase s = 0x12340)
    ∧ (writeWord 0x2210 0xFFFFFFFF 0xFFFFFFFF (there base)).ctl.ramht = 0x1FF
    ∧ (writeWord 0x2214 0xFFFFFFFF 0xFFFFFFFF (there base)).ctl.ramfc = 0x00FFFF00
    ∧ (writeWord 0x2600 0xFFFFFFFF 0xFFFFFFFF (there base)).ctl.acquire = 0x80000000
    ∧ (clearAcquire (there { base with ctl := { base.ctl with acquire := 0x80000000 } })).ctl.acquire = 0
    ∧ (let r : Ctl := { base.ctl with fifoIntr := 8, fifoIntrEn := 8 }
       intrWord reshaped.bits r = 1 ∧ irqLine reshaped.bits { r with intrEn := 1 } = false
         ∧ irqLine reshaped.bits { r with intrEn := 4 } = true)
    ∧ (let s := raiseNotify (there base)
       s.ctl.grIntr = 0x20 ∧ s.ctl.grNsource = 0x40) := by decide +kernel

/-- Other packings, pixel sizes and clears (R6 `bpp`, `M_*`, R130, R230, R297 to R300): a fill of 1 by 2 pixels of 4
bytes at (3, 7) of rows of 16 bytes, and a clear of 3 columns and 1 row. -/
theorem test_other_operand_forms :
    (let s := after (.gdiUnclippedSize 0 0x00020001) (there (modCh (fun x => { x with
        surf := { x.surf with format := 0xD, pitch := 0x00200010 }, gdi := { x.gdi with color := 0xFF123456 } }) filling))
     s.dirty = [.rect 3 7 1 2] ∧ bytesAt s 0x107C 4 = [0x56, 0x34, 0x12, 0] ∧ bytesAt s 0x108C 2 = [0x56, 0x34])
    ∧ bpp reshaped 0x4 = 2 ∧ bpp reshaped 0x1 = 0
    ∧ (let s := modCh (fun x => { x with d3d := { x.d3d with cclear := 0xFFFFFFFF } }) (there (clearing 0x25))
       (after (.d3dClear 1) s).dirty = [.rect 1 0 3 1] ∧ bytesAt (after (.d3dClear 1) s) 0x1004 1 = [0xFF]
         ∧ bytesAt (after (.d3dClear 0xF0) s) 0x1004 1 = [0]) := by decide +kernel

/-- `HandleMethodsResolve`: a number inside a handle range of one number, and either side of it; a handle that is found
and one that is not. -/
theorem witness_handle_range :
    (∀ m ∈ [0x0C0, 0x0C1, 0x0C2], (reshaped.mthds.handleFirst.toNat ≤ m ∧ m ≤ reshaped.mthds.handleLast.toNat) ↔ m = 0x0C1)
    ∧ hashFind oneEntry 0x1001 oneEntry.cur = some (0x12300, 1) ∧ hashFind (there base) 5 (there base).cur = none := by
  decide +kernel

/-- `CommandWordsLeaveTheRest`: either side of its one condition. -/
theorem witness_leaves_the_rest :
    base.failNext = .no ∧ (Instr.jmp 4).isParameter = false
    ∧ ({ base with failIn := [.before] } : State).failNext = .before := by decide +kernel

/-- `JumpsLoadTheCursor`, `CallAndReturn`, `HeaderLoadsTheParser`, `MalformedWordsAreLogged`: words of each pattern. -/
theorem witness_control_patterns :
    (0x3FFFFFFC : Word) &&& 0xE0000003 = 0x20000000 ∧ (0xFFFFFFFD : Word) &&& 0x00000003 = 0x00000001
    ∧ (0xFFFFFFFE : Word) &&& 0x00000003 = 0x00000002 ∧ (0x5FFCFFFC : Word) &&& 0xA0030003 = 0
    ∧ ((0x40020000 : Word) &&& 0xE0000003 ≠ 0x20000000 ∧ (0x40020000 : Word) &&& 0x00000003 ≠ 1
        ∧ (0x40020000 : Word) &&& 0x00000003 ≠ 2 ∧ (0x40020000 : Word) ≠ 0x00020000
        ∧ (0x40020000 : Word) &&& 0xA0030003 ≠ 0) := by decide

/-- `CallAndReturn`: a subroutine active, none active. -/
theorem witness_subroutine :
    (withCh fun x => { x with subActive := true }).ch.subActive = true ∧ base.ch.subActive = false := by decide +kernel

/-- `GlobalMethods`: the oracle lets through; the two boundary methods and the one with an effect; the number that a
device has for it, the one it has in the table, and the last channel-global one. -/
theorem witness_global_methods :
    base.failNext = .no ∧ (1 ≤ (0x001 : Word).toNat ∧ (0x001 : Word).toNat < 0x40 ∧ (0x001 : Word) ≠ 0x014)
    ∧ (1 ≤ (0x03F : Word).toNat ∧ (0x03F : Word).toNat < 0x40 ∧ (0x03F : Word) ≠ 0x014)
    ∧ (1 ≤ (0x014 : Word).toNat ∧ (0x014 : Word).toNat < 0x40)
    ∧ (let s := boundThere 0x19 0 0x020
       s.failNext = .no ∧ s.ch.mthd ≠ 0 ∧ s.ch.mthd = s.cfg.mthds.refCnt.setWidth 32)
    ∧ ∀ m ∈ [0x014, 0x03F],
        let s := boundThere 0x19 0 (BitVec.ofNat 32 m)
        s.failNext = .no ∧ s.ch.mthd ≠ 0 ∧ s.ch.mthd ≠ s.cfg.mthds.refCnt.setWidth 32
          ∧ s.ch.mthd.toNat ≤ s.cfg.mthds.globalLast.toNat := by
  decide +kernel

/-- `NotifyAndSetNotifier` and every statement over `Ready` states: nothing armed, and for the first also armed. -/
theorem witness_ready :
    Ready base ∧ (withCh fun x => { x with notifyArmed := true }).failNext = .no := by
  unfold Ready; decide +kernel

/-- `LinkWord`: word 1 in device memory in both layouts (the last word of it), and outside. -/
theorem witness_link_word :
    base.dev.wf = true ∧ inVram base.cfg (0xFFFFF8 + 4) 4 = true ∧ base.cfg.layout = .pre
    ∧ inVram (Config.ofLayout .post) (0xFFFFF8 + 4) 4 = true ∧ (Config.ofLayout .post).layout = .post
    ∧ inVram base.cfg (0xFFFFF9 + 4) 4 = false := by decide +kernel

/-- `BindRebinds`: an object being left on the graphics engine, a handle that is found, and the link load. -/
theorem witness_bind :
    (let s := modSc (fun y => { y with object := 0x300, engine := 1 }) oneEntry
     s.failNext = .no ∧ s.dev.wf = true ∧ s.sc.engine = s.cfg.engGr
       ∧ hashFind (linkStore s.sc.object s.sc.notifier s) 0x1001 s.cur = some (0x12300, s.cfg.engGr)
       ∧ s.cfg.postLink = .store)
    ∧ ({ oneEntry with cfg := { oneEntry.cfg with postLink := .load } } : State).cfg.postLink = .load := by
  decide +kernel

/-- `SoftwareMethodsAreQueued`. -/
theorem witness_software :
    (let s := bound 0x7B 0 0x040
     s.failNext = .no ∧ s.cfg.mthds.globalLast.toNat < s.ch.mthd.toNat ∧ s.ch.mthd ≠ s.cfg.mthds.refCnt.setWidth 32 ∧ s.sc.engine = engSw) := by
  decide +kernel

/-- A notification of type 1 armed. -/
def armed (s : State) : State := modCh (fun x => { x with notifyArmed := true, notifyType := 1 }) s

/-- `UnknownTargetsAreLogged`: another engine; a class that is none of the nine, armed; a method that the class does not
have, also one at `0x800` and one that only the table has, armed; nothing armed. -/
theorem witness_unknown_targets :
    (let s := bound 0x42 5 0x040
     s.failNext = .no ∧ s.cfg.mthds.globalLast.toNat < s.ch.mthd.toNat ∧ s.ch.mthd ≠ s.cfg.mthds.refCnt.setWidth 32 ∧ s.sc.engine ≠ engSw
       ∧ s.sc.engine ≠ s.cfg.engGr ∧ s.ch.notifyArmed = false)
    ∧ (let s := armed (bound 0x55 1 0x100)
       s.failNext = .no ∧ s.cfg.mthds.globalLast.toNat < s.ch.mthd.toNat ∧ s.ch.mthd ≠ s.cfg.mthds.refCnt.setWidth 32 ∧ s.sc.engine ≠ engSw
         ∧ s.sc.engine = s.cfg.engGr ∧ s.ch.mthd ≠ s.cfg.mthds.notify.setWidth 32
         ∧ s.ch.mthd ≠ s.cfg.mthds.setNotifier.setWidth 32
         ∧ clsOf s.cfg (devRead s s.sc.object 4 &&& s.cfg.classMask) = none)
    ∧ ∀ e ∈ [(bound 0x42 1 0x063, Cls.surf2d), (bound 0x61 1 0x800, .ifc), (armed (boundThere 0x19 1 0x0C0), .clip)],
        let s := e.1
        s.failNext = .no ∧ s.cfg.mthds.globalLast.toNat < s.ch.mthd.toNat ∧ s.ch.mthd ≠ s.cfg.mthds.refCnt.setWidth 32 ∧ s.sc.engine ≠ engSw
          ∧ s.sc.engine = s.cfg.engGr ∧ s.ch.mthd ≠ s.cfg.mthds.notify.setWidth 32
          ∧ s.ch.mthd ≠ s.cfg.mthds.setNotifier.setWidth 32
          ∧ clsOf s.cfg (devRead s s.sc.object 4 &&& s.cfg.classMask) = some e.2
          ∧ (s.ch.mthd.toNat < 0x800 →
              ∀ x ∈ s.cfg.mthds.ofClass e.2, ∀ k, k < x.count → s.ch.mthd.toNat ≠ x.base.toNat + x.step * k) := by
  decide +kernel

/-- `DispatchFailsBefore` and `DispatchFailsAfter`. -/
theorem witness_dispatch_fails :
    (Instr.refCnt 0xDEAD).isParameter = true ∧ (Instr.data 1).isParameter = true
    ∧ ({ base with failIn := [.before] } : State).failNext = .before
    ∧ ({ base with failIn := .after :: [] } : State).failNext = .after := by decide +kernel

/-- `ArmedClassMethod`. -/
theorem witness_armed :
    (let s := withCh fun x => { x with notifyArmed := true }
     (Instr.gdiColorA 1).isClassMethod = true ∧ s.failNext = .no ∧ s.ch.notifyArmed = true) := by decide +kernel

/-- A paged object at `0x400` with adjust `0xFF8`: its first 8 bytes lie at `0x5FF8`, the next page at `0x3000`. -/
def paged (s : State) : State := poke 0x408 [0, 0x50, 0, 0, 0, 0x30, 0, 0] (poke 0x402 [0x80, 0xFF] s)

/-- `CompletionRecord`: unarmed; armed with a notifier in device memory; armed with one in system memory. -/
theorem witness_completion_record :
    base.ch.notifyArmed = false
    ∧ (let s := withCh fun x => { x with notifyArmed := true, notifyType := 1, sub := x.sub.set 0 ⟨0, 1, 0x100⟩ }
       s.ch.notifyArmed = true ∧ s.dev.wf = true ∧ LinearDev s s.sc.notifier
         ∧ (viewBase s s.sc.notifier).toNat + 16 ≤ s.cfg.vramSize
         ∧ s.sc.notifier.toNat + 12 ≤ (viewBase s s.sc.notifier).toNat)
    ∧ (let s := withCh fun x => { x with notifyArmed := true, sub := x.sub.set 0 ⟨0, 1, 0x200⟩ }
       s.ch.notifyArmed = true ∧ (dmaXlate s s.sc.notifier 0).1 = .sys) := by
  unfold LinearDev; decide +kernel

/-- `CompletionRecord`: a record that crosses from one page of its notifier to the next. -/
theorem witness_completion_record_paged :
    (let s := paged (withCh fun x => { x with notifyArmed := true, sub := x.sub.set 0 ⟨0, 1, 0x400⟩ })
     let n := s.sc.notifier
     s.ch.notifyArmed = true ∧ s.dev.wf = true ∧ dmaXlate s n 4 = (.dev, 0x5FFC) ∧ dmaXlate s n 8 = (.dev, 0x3000)
       ∧ Steady s [⟨n, 0, 4⟩, ⟨n, 4, 4⟩, ⟨n, 8, 4⟩, ⟨n, 12, 4⟩]) :=
  ⟨by decide +kernel, by decide +kernel, by decide +kernel, by decide +kernel, steady_of_apart (by decide +kernel)⟩

/-- `FillsPaintTheirRectangle`: a format code in a table, listed once and twice, and one that is not; both fills, one of
them empty in height. -/
theorem witness_fill :
    ([(0x1, ElemSize.four), (0x1, .one)] : List (Word × ElemSize)) = [] ++ (0x1, .four) :: [(0x1, .one)]
    ∧ bppDefault = bppDefault.take 3 ++ (0x5, ElemSize.two) :: bppDefault.drop 4 ∧ (∀ d ∈ bppDefault.take 3, d.1 ≠ 0x5)
    ∧ (∀ d ∈ bppDefault, d.1 ≠ 0xC) ∧ Ready filling ∧ filling.dev.wf = true ∧ filling.bppNow ≠ 0
    ∧ (let k := filling.cfg.packings
       let g := filling.ch.gdi
       let m := gdiNumber filling.cfg.mthds.gdiUnclippedSize 31
       DstOk filling (k.gdiUnclippedPoint.fst g.point) (k.gdiUnclippedPoint.snd g.point)
        (k.gdiUnclippedSize.fst (paramValue filling m 0x00020001)) (k.gdiUnclippedSize.snd (paramValue filling m 0x00020001)))
    ∧ ∀ p ∈ [0x00030006, 0x00000006],
        let k := filling.cfg.packings
        let g := filling.ch.gdi
        let q := paramValue filling (gdiNumber filling.cfg.mthds.gdiClippedPoint1 31) (BitVec.ofNat 32 p)
        let x0 := k.gdiClippedPoint0.fst g.rect0
        let y0 := k.gdiClippedPoint0.snd g.rect0
        DstOk filling x0 y0 (k.gdiClippedPoint1.fst q - x0) (k.gdiClippedPoint1.snd q - y0) := by
  unfold Ready DstOk PlaneOk LinearDev; decide +kernel

/-- An upload that wants so many words more. -/
def uploading (buf : List Word) (need : Nat) : State :=
  withCh fun x => { x with surf := surface, ifc := { x.ifc with state := .streaming, sizeOut := 0x00020003,
                                                                sizeIn := 0x00020002, buf := buf, need := need } }

/-- `LastDataWordDrawsTheImage`. -/
theorem witness_last_data_word :
    (let s := uploading [1] 2
     Ready s ∧ s.dev.wf = true ∧ s.bppNow ≠ 0 ∧ s.ch.ifc.state = .streaming ∧ s.ch.ifc.buf.length + 1 = s.ch.ifc.need
       ∧ (let k := s.cfg.packings
          DstOk s (k.ifcPoint.fst s.ch.ifc.point) (k.ifcPoint.snd s.ch.ifc.point) (k.ifcSizeOut.fst s.ch.ifc.sizeOut)
            (k.ifcSizeOut.snd s.ch.ifc.sizeOut))
       ∧ (Instr.ifcData100 0x1FF 1).wf = true) := by
  unfold Ready DstOk PlaneOk LinearDev; decide +kernel

/-- The fast path of an upload, through the surface's destination object or another. -/
def fastPath (obj off : Word) : State :=
  withCh fun x => { x with surf := { surface with dstObj := obj }, ifc := { x.ifc with state := .fastPath, fastOff := off } }

/-- `UploadSizes`: in the fast path and outside it. -/
theorem witness_upload_sizes :
    (fastPath 0x100 0x14).ch.ifc.state = .fastPath ∧ Ready (fastPath 0x100 0x14)
    ∧ base.ch.ifc.state ≠ .fastPath := by
  unfold Ready; decide +kernel

/-- `DataWordsOfAnUpload`: configuring, streaming, and the fast path into device memory (its last word), outside it, and
into system memory. -/
theorem witness_data_words :
    base.ch.ifc.state = .configuring
    ∧ ((uploading [1] 4).ch.ifc.state = .streaming
        ∧ (uploading [1] 4).ch.ifc.buf.length + 1 ≠ (uploading [1] 4).ch.ifc.need)
    ∧ (let s := fastPath 0x100 0xFFEFFC
       Ready s ∧ s.dev.wf = true ∧ s.ch.ifc.state = .fastPath
         ∧ (dmaXlate s s.ch.surf.dstObj s.ch.ifc.fastOff).1 = .dev
         ∧ inVram s.cfg (dmaXlate s s.ch.surf.dstObj s.ch.ifc.fastOff).2 4 = true)
    ∧ (let s := fastPath 0x100 0xFFEFFD
       (dmaXlate s s.ch.surf.dstObj s.ch.ifc.fastOff).1 = .dev
         ∧ inVram s.cfg (dmaXlate s s.ch.surf.dstObj s.ch.ifc.fastOff).2 4 = false)
    ∧ (dmaXlate (fastPath 0x200 0) 0x200 0).1 = .sys
    ∧ (Instr.ifcData100 0x100 1).wf = true ∧ (Instr.ifcData200 0x3FF 1).wf = true
    ∧ (Instr.ifcData400 0x400 1).wf = true := by
  unfold Ready; decide +kernel

/-- A copy of 3 by 2 pixels by (10, 5) inside one surface, the case of 95_test_vectors.md 1.9 in little. -/
def blitting : State :=
  withCh fun x => { x with surf := { surface with pitch := 0x00800080 }, blit := { pointIn := 0, pointOut := 0x00010001 } }

/-- `BlitIsOverlapSafe`. -/
theorem witness_overlapping_blit :
    (let s := blitting
     let f := s.ch.surf
     Ready s ∧ s.dev.wf = true ∧ s.bppNow ≠ 0 ∧ f.srcObj = f.dstObj ∧ f.ofsSrc = f.ofsDst ∧ s.srcPitch = s.dstPitch
       ∧ s.cfg.packings.blitPointIn.fst s.ch.blit.pointIn = 0 ∧ s.cfg.packings.blitPointOut.fst s.ch.blit.pointOut = 1
       ∧ s.cfg.packings.blitPointIn.snd s.ch.blit.pointIn = 0 ∧ s.cfg.packings.blitPointOut.snd s.ch.blit.pointOut = 1
       ∧ s.cfg.packings.blitSize.fst (paramValue s 0x0C2 0x00020003) = 3
       ∧ s.cfg.packings.blitSize.snd (paramValue s 0x0C2 0x00020003) = 2
       ∧ DstOk s (min 0 1) (min 0 1) (max 0 1 + 3 - min 0 1) (max 0 1 + 2 - min 0 1)) := by
  unfold Ready DstOk PlaneOk LinearDev; decide +kernel

/-- `BlitCopiesBetweenViews`: the source rectangle directly before the destination's. -/
theorem witness_blit_between_views :
    (let s := withCh fun x => { x with surf := { surface with ofsDst := 0x100 }, blit := { pointIn := 0, pointOut := 0 } }
     let f := s.ch.surf
     let b := s.bppNow
     let lo := elemAddr s f.dstObj f.ofsDst s.dstPitch b 0 0
     let hi := elemAddr s f.dstObj f.ofsDst s.dstPitch b 3 2
     Ready s ∧ s.dev.wf = true ∧ b ≠ 0 ∧ DstOk s 0 0 3 2 ∧ LinearDev s f.srcObj
       ∧ elemAddr s f.srcObj f.ofsSrc s.srcPitch b 3 2 ≤ s.cfg.vramSize
       ∧ elemAddr s f.srcObj f.ofsSrc s.srcPitch b 3 2 ≤ lo
       ∧ (f.srcObj.toNat + 12 ≤ lo ∨ hi ≤ f.srcObj.toNat)) := by
  unfold Ready DstOk PlaneOk LinearDev; decide +kernel

/-- `MemCopyCopiesLines`. -/
theorem witness_memcopy :
    (let s := withCh fun x => { x with m2mf := { x.m2mf with srcObj := 0x100, dstObj := 0x100, ofsOut := 0x400, pitchIn := 0x40,
                                                             pitchOut := 0x80, lineLen := 0x13, lineCount := 2 } }
     let y := s.ch.m2mf
     let n := (y.lineLen >>> 2).toNat
     let l := y.lineCount.toNat
     let lo := elemAddr s y.dstObj y.ofsOut y.pitchOut.toNat 4 0 0
     Ready s ∧ s.dev.wf = true ∧ PlaneOk s y.dstObj y.ofsOut y.pitchOut.toNat 4 0 0 n l ∧ LinearDev s y.srcObj
       ∧ elemAddr s y.srcObj y.ofsIn y.pitchIn.toNat 4 n l ≤ s.cfg.vramSize
       ∧ elemAddr s y.srcObj y.ofsIn y.pitchIn.toNat 4 n l ≤ lo ∧ y.srcObj.toNat + 12 ≤ lo) := by
  unfold Ready PlaneOk LinearDev; decide +kernel

/-- The rectangle of `clearing`, with the default packings and form: from (1, 0) on, 3 columns, 2 rows. -/
theorem clearing_rect :
    (let s := clearing 0x25
     let k := s.cfg.packings
     let y := s.ch.d3d
     k.d3dClearRectH.fst y.rectH = 1 ∧ k.d3dClearRectV.fst y.rectV = 0 ∧ s.cfg.clear.span = .inclusive
       ∧ k.d3dClearRectH.snd y.rectH + 1 - 1 = 3 ∧ k.d3dClearRectV.snd y.rectV + 1 - 0 = 2
       ∧ paramValue s 0x765 0xF3 = 0xF3) := by decide +kernel

/-- `ClearFillsOnePlane`: colour only, depth only (by the enables and by the format), neither; the rectangle is that of
`clearing_rect`. -/
theorem witness_clear_one_plane :
    (let s := clearing 0x25
     let y := s.ch.d3d
     let f := s.cfg.clear
     let cb := cbytes s.cfg y.format
     f = clearDefault ∧ Ready s ∧ s.dev.wf = true ∧ ((0xF0 : Word) &&& f.colorEnable ≠ 0 ∧ cb ≠ 0)
       ∧ ¬ ((0xF0 : Word) &&& f.zetaEnable ≠ 0 ∧ zbytes s.cfg y.format ≠ 0)
       ∧ PlaneOk s y.colorObj y.colorOfs (s.cfg.packings.d3dSurfacePitch.fst y.pitch) cb 1 0 3 2)
    ∧ (let s := clearing 0x20
       let y := s.ch.d3d
       let f := s.cfg.clear
       let zb := zbytes s.cfg y.format
       ¬ ((0xF1 : Word) &&& f.colorEnable ≠ 0 ∧ cbytes s.cfg y.format ≠ 0) ∧ ((0xF1 : Word) &&& f.zetaEnable ≠ 0 ∧ zb ≠ 0)
       ∧ PlaneOk s y.zetaObj y.zetaOfs (s.cfg.packings.d3dSurfacePitch.snd y.pitch) zb 1 0 3 2)
    ∧ ¬ ((0x0C : Word) &&& 0xF0 ≠ 0) ∧ ¬ ((0x0C : Word) &&& 0x03 ≠ 0) := by
  unfold Ready PlaneOk LinearDev; decide +kernel

/-- `ClearFillsBothPlanes`; the rectangle is that of `clearing_rect`. -/
theorem witness_clear_both_planes :
    (let s := clearing 0x25
     let y := s.ch.d3d
     let f := s.cfg.clear
     let cb := cbytes s.cfg y.format
     let zb := zbytes s.cfg y.format
     let cp := s.cfg.packings.d3dSurfacePitch.fst y.pitch
     let zp := s.cfg.packings.d3dSurfacePitch.snd y.pitch
     let ca (i j : Nat) := elemAddr s y.colorObj y.colorOfs cp cb (1 + i) j
     let za (i j : Nat) := elemAddr s y.zetaObj y.zetaOfs zp zb (1 + i) j
     Ready s ∧ s.dev.wf = true ∧ (0x11 : Word) &&& f.colorEnable ≠ 0 ∧ (0x11 : Word) &&& f.zetaEnable ≠ 0 ∧ cb = 4 ∧ zb = 4
       ∧ PlaneOk s y.colorObj y.colorOfs cp cb 1 0 3 2 ∧ PlaneOk s y.zetaObj y.zetaOfs zp zb 1 0 3 2
       ∧ ca 3 2 ≤ za 0 0 ∧ y.zetaObj.toNat + 12 ≤ ca 0 0) := by
  unfold Ready PlaneOk LinearDev; decide +kernel

/-- `UnknownFormatPaintsNothing`: the codes on either side of the known ones, and an upload whose last word comes. -/
theorem witness_unknown_format :
    ∀ f ∈ [0, 0xC],
      let s := modCh (fun x => { x with surf := { surface with format := BitVec.ofNat 32 f } }) (uploading [1] 2)
      Ready s ∧ s.cfg.bpp = bppDefault ∧ (s.ch.surf.format = 0 ∨ 0xC ≤ s.ch.surf.format.toNat) ∧ s.ch.surf.format ≠ 4
        ∧ (∀ e ∈ s.cfg.bpp, e.1 ≠ s.ch.surf.format) ∧ s.ch.ifc.state = .streaming
        ∧ s.ch.ifc.buf.length + 1 = s.ch.ifc.need ∧ (Instr.ifcData100 0x1FF 1).wf = true := by
  unfold Ready; decide +kernel

/-- The surface's pixel at `(x, y)`, two bytes of an object, rows 16 bytes apart. -/
def pixelOf (obj : Word) (x y : Nat) : Item := ⟨obj, BitVec.ofNat 32 (y * 16 + x * 2), 2⟩

/-- A surface whose destination is the paged object: the pixels of its row 0 lie in two pages. -/
def onPages (s : State) : State := paged (modCh (fun x => { x with surf := { surface with dstObj := 0x400 } }) s)

/-- `ExecutorsComplete`: an upload whose last word comes, into the object in system memory and into the paged one. -/
theorem witness_executors :
    (let s := modCh (fun x => { x with surf := { surface with dstObj := 0x200 } }) (uploading [1] 2)
     Ready s ∧ s.ch.ifc.state = .streaming ∧ s.ch.ifc.buf.length + 1 = s.ch.ifc.need
       ∧ (Instr.ifcData100 0x1FF 1).wf = true
       ∧ ∀ c ∈ grid 3 2 (fun i j => [pixelOf 0x200 i j]), (dmaXlate s c.obj c.off).1 = .sys)
    ∧ (let s := onPages (uploading [1] 2)
       Ready s ∧ s.dev.wf = true ∧ Steady s (grid 5 2 (fun i j => [pixelOf 0x400 i j]))) := by
  unfold Ready
  exact ⟨by decide +kernel, by decide +kernel, by decide +kernel, steady_of_apart (by decide +kernel)⟩

/-- `ExecutorsStoreThroughAnyObject`: the fills and the drawing of an image into the paged object, the clear of one
plane there and one in system memory. -/
theorem witness_stores_through_any_object :
    (let s := onPages filling
     Ready s ∧ s.dev.wf = true ∧ s.bppNow = 2 ∧ dmaXlate s 0x400 8 = (.dev, 0x3000)
       ∧ Steady s ((grid 2 1 (fun i j => [(pixelOf 0x400 (3 + i) (7 + j), (0x1234 : Word))])).map (·.1))
       ∧ Steady s ((grid 4 2 (fun i j => if 0 ≤ 2 + i ∧ 2 + i < 4 ∧ 0 ≤ 1 + j ∧ 1 + j < 2
          then [(pixelOf 0x400 (2 + i) (1 + j), (0x1234 : Word))] else [])).map (·.1)))
    ∧ (let s := onPages (uploading [1] 2)
       s.ch.ifc.state = .streaming ∧ s.ch.ifc.buf.length + 1 = s.ch.ifc.need ∧ (Instr.ifcData100 0x1FF 1).wf = true
         ∧ Steady s ((grid 3 2 (fun i j => [(pixelOf 0x400 i j, imagePixel [1, 1] 2 (j * 2 + i))])).map (·.1)))
    ∧ (let s := paged (clearing 0x25)
       let plane (obj : Word) : List (Item × Word) :=
        grid 3 2 (fun i j => [(⟨obj, BitVec.ofNat 32 ((0 + j) * 64 + (1 + i) * 4), 4⟩, 0)])
       Ready s ∧ s.dev.wf = true ∧ Steady s ((plane 0x400 ++ plane 0x200).map (·.1))) := by
  unfold Ready
  exact ⟨⟨by decide +kernel, by decide +kernel, by decide +kernel, by decide +kernel, steady_of_apart (by decide +kernel),
      steady_of_apart (by decide +kernel)⟩,
    ⟨by decide +kernel, by decide +kernel, by decide +kernel, steady_of_apart (by decide +kernel)⟩,
    by decide +kernel, by decide +kernel, steady_of_apart (by decide +kernel)⟩

/-- What the copies of `ExecutorsStoreThroughAnyObject` ask for, of items that lie apart. -/
theorem copies_apart {s : State} {ms : List (Item × Item)}
    (h1 : ∀ e ∈ ms, (dmaXlate s e.1.obj e.1.off).1 = .dev)
    (h2 : (ms.map (·.2)).all (fun c => (ms.map (·.2)).all (fun d =>
      (xlateReads s d.obj d.off).all (c.apartFrom s))) = true)
    (h3 : ∀ e ∈ ms, ∀ c ∈ ms, ((dmaXlate s c.2.obj c.2.off).2.toNat + c.2.size ≤ (dmaXlate s e.1.obj e.1.off).2.toNat
        ∨ (dmaXlate s e.1.obj e.1.off).2.toNat + e.1.size ≤ (dmaXlate s c.2.obj c.2.off).2.toNat)
      ∧ (xlateReads s e.1.obj e.1.off).all (c.2.apartFrom s) = true) :
    (∀ e ∈ ms, (dmaXlate s e.1.obj e.1.off).1 = .dev) ∧ Steady s (ms.map (·.2))
      ∧ ∀ e ∈ ms, ∀ c ∈ ms, ∀ a, c.2.covers s a → ¬ e.1.covers s a ∧ ∀ r ∈ xlateReads s e.1.obj e.1.off,
        a < r.toNat ∨ r.toNat + 4 ≤ a :=
  ⟨h1, steady_of_apart h2, fun e he c hc _ ha => ⟨not_covers_of_apart ha (h3 e he c hc).1, fun r hr =>
    not_covers_of_apartFrom (List.all_eq_true.1 (h3 e he c hc).2 r hr) ha⟩⟩

/-- `ExecutorsStoreThroughAnyObject`: a block copy of 3 by 2 pixels and a copy of 2 lines of 3 words from the linear
object into the paged one. -/
theorem witness_copies_through_any_object :
    (let s := onPages (withCh fun x => { x with blit := { pointIn := 0, pointOut := 0x00010001 } })
     let ms := grid 3 2 (fun i' j' =>
      let i := if 0 < 1 then 3 - 1 - i' else i'
      let j := if 0 < 1 then 2 - 1 - j' else j'
      [(pixelOf 0x100 i j, pixelOf 0x400 (1 + i) (1 + j))])
     Ready s ∧ s.dev.wf = true ∧ (∀ e ∈ ms, (dmaXlate s e.1.obj e.1.off).1 = .dev) ∧ Steady s (ms.map (·.2))
       ∧ ∀ e ∈ ms, ∀ c ∈ ms, ∀ a, c.2.covers s a → ¬ e.1.covers s a ∧ ∀ r ∈ xlateReads s e.1.obj e.1.off,
        a < r.toNat ∨ r.toNat + 4 ≤ a)
    ∧ (let s := paged (withCh fun x => { x with m2mf := { x.m2mf with srcObj := 0x100, dstObj := 0x400, pitchIn := 16,
                                                                      pitchOut := 32, lineLen := 12, lineCount := 2 } })
       let ms : List (Item × Item) := grid 3 2 (fun k l =>
        [(⟨0x100, BitVec.ofNat 32 (l * 16 + 4 * k), 4⟩, ⟨0x400, BitVec.ofNat 32 (l * 32 + 4 * k), 4⟩)])
       (∀ e ∈ ms, (dmaXlate s e.1.obj e.1.off).1 = .dev) ∧ Steady s (ms.map (·.2))
         ∧ ∀ e ∈ ms, ∀ c ∈ ms, ∀ a, c.2.covers s a → ¬ e.1.covers s a ∧ ∀ r ∈ xlateReads s e.1.obj e.1.off,
          a < r.toNat ∨ r.toNat + 4 ≤ a) := by
  unfold Ready
  exact ⟨⟨by decide +kernel, by decide +kernel,
      copies_apart (by decide +kernel) (by decide +kernel) (by decide +kernel)⟩,
    copies_apart (by decide +kernel) (by decide +kernel) (by decide +kernel)⟩

/-- `DeviceAccesses`: the last word of device memory, and one byte further. -/
theorem witness_device_accesses :
    base.dev.wf = true ∧ (0xFFFFFC : Word).toNat + 4 ≤ base.cfg.vramSize ∧ base.cfg.vramSize < (0xFFFFFD : Word).toNat + 4 := by
  decide +kernel

/-- `DmaTranslation`: linear and paged descriptors; two states with one device memory. -/
theorem witness_translation :
    (devRead base 0x100 4).getLsbD 13 = true ∧ (devRead base 0x400 4).getLsbD 13 = false
    ∧ base.dev = ({ base with sysReads := 1 } : State).dev ∧ base.cfg = ({ base with sysReads := 1 } : State).cfg := by
  decide +kernel

/-- The device of `oneEntry` with the context words of the other layout: chid 0, engine 1, object `0x12300`. -/
def oneEntryPost : State :=
  poke 0x1004C [0x30, 0x12, 0x10, 0] { oneEntry with cfg := Config.ofLayout .post }

/-- `LookupFindsTheFirstMatch`, in both layouts: the slot of the handle `0x1001` is the first one probed, and it is found;
another handle is not found. -/
theorem witness_lookup :
    (let s := oneEntry
     let ctx := devRead s 0x1004C 4
     s.cfg.ramht = ramhtDefault ∧ s.cfg.ctx = ctxLayoutOf .pre ∧ devRead s (0x10000 + 9 * 8) 4 = 0x1001 ∧ (ctx >>> 24) &&& 0x1F = 0
       ∧ hashFind s 0x1001 s.cur = some (0x12300, 1))
    ∧ (let s := oneEntryPost
       let ctx := devRead s 0x1004C 4
       s.cfg.ctx = ctxLayoutOf .post ∧ devRead s (0x10000 + 9 * 8) 4 = 0x1001 ∧ (ctx >>> 23) &&& 0x1F = 0
         ∧ hashFind s 0x1001 s.cur = some (0x12300, 1)) := by decide +kernel

/-- `LookupFindsTheFirstMatch`: a lookup that fails, in a table outside device memory. -/
theorem witness_lookup_fails :
    (let s : State := { State.reset with cfg := { Config.ofLayout .pre with vramSize := 0 } }
     hashFind s 0x1001 s.cur = none) := by decide +kernel

/-- `ContextSwitchMovesFiveFields`, in both layouts, to the last channel: slots in device memory, and outside it. -/
theorem witness_context_switch :
    ∀ e ∈ [(Layout.pre, (0x110 : Word), (0x2C : Word)), (.post, 0xFE, 0x30)],
      let s : State := { base with cfg := Config.ofLayout e.1, ctl := { base.ctl with ramfc := e.2.1 } }
      s.dev.wf = true ∧ (31 : ChanId) ≠ s.cur ∧ s.cfg.ramfc = ramfcOf s.cfg.layout
        ∧ s.cfg.fcOff = { put := 0, get := 4, ref := 8, dma := 12, sema := e.2.2 }
        ∧ (slotAddr s 31 + e.2.2).toNat + 4 ≤ s.cfg.vramSize := by decide +kernel

/-- `ContextSwitchMovesFiveFields`: every word of both slots outside device memory. -/
theorem witness_context_switch_outside :
    (let s : State := { base with cfg := { Config.ofLayout .pre with vramSize := 0x1000 },
                                  ctl := { base.ctl with ramfc := 0x110 } }
     (31 : ChanId) ≠ s.cur ∧ s.cfg.fcOff = { put := 0, get := 4, ref := 8, dma := 12, sema := 0x2C }
       ∧ (slotAddr s s.cur = 0x11000 ∧ ∀ x ∈ [(0x11000 : Word), 0x11004, 0x11008, 0x1100C, 0x1102C],
          s.cfg.vramSize < x.toNat + 4)
       ∧ (slotAddr s 31 = 0x117C0 ∧ ∀ x ∈ [(0x117C0 : Word), 0x117C4, 0x117C8, 0x117CC, 0x117EC],
          s.cfg.vramSize < x.toNat + 4)) := by
  simp only [List.forall_mem_cons, List.not_mem_nil, false_imp_iff, implies_true, and_true]
  decide +kernel

/-- With the acquire flag, the save area at `0x11000` and such tasks and inputs; channel 3 waits if `put` is not 0. -/
def ticking (acquire : Word) (put : Byte) (ts : List Task) (is : List Input) : State :=
  poke 0x110C0 [put] { base with ctl := { base.ctl with ramfc := 0x110, acquire := acquire }, tasks := ts, inputs := is }

/-- `TickVisitsChannels`: the flag clear and set; the end of the loop; a channel that does not wait, the current one
waiting, another one waiting. -/
theorem witness_tick :
    (ticking 0 0 [] [.tick]).ctl.acquire.getLsbD base.cfg.bits.acquire = false
    ∧ (ticking 1 0 [] [.tick]).ctl.acquire.getLsbD base.cfg.bits.acquire = true
    ∧ (ticking 1 0 [.tick 32] []).tasks = [.tick 32]
    ∧ (let s := ticking 1 0 [.tick 31] []
       s.tasks = [.tick (31 : ChanId).toNat] ∧ (31 : ChanId) ≠ s.cur
         ∧ devRead s (slotAddr s 31 + s.cfg.fcOff.get) 4 = devRead s (slotAddr s 31 + s.cfg.fcOff.put) 4)
    ∧ (let s : State := { ticking 1 0 [.tick 0] [] with live := { base.live with put := 4 } }
       s.tasks = [.tick (0 : ChanId).toNat] ∧ (0 : ChanId) = s.cur ∧ s.live.get ≠ s.live.put)
    ∧ (let s := ticking 1 8 [.tick 3] []
       s.tasks = [.tick (3 : ChanId).toNat] ∧ (3 : ChanId) ≠ s.cur
         ∧ devRead s (slotAddr s 3 + s.cfg.fcOff.get) 4 ≠ devRead s (slotAddr s 3 + s.cfg.fcOff.put) 4) := by
  decide +kernel

/-- `IdleTickClearsTheFlag`. -/
theorem witness_idle_tick :
    (let s := ticking 1 0 [] [.tick]
     s.tasks = [] ∧ s.inputs = [.tick] ∧ s.ctl.acquire.getLsbD s.cfg.bits.acquire = true
       ∧ ∀ k, k < 32 → pending s (BitVec.ofNat 5 k) = false) := by decide +kernel

/-- `HostWriteSplitsIntoWords` and `HostReadHasNoEffect`: an access of eight bytes that touches three words, and one that
runs past `0xFFFFFF`. -/
theorem witness_host_accesses :
    (let s : State := { base with inputs := [.write 0x003243 7 1] }
     s.tasks = [] ∧ s.inputs = [.write 0x003243 7 1])
    ∧ touched 0x003243 8 = [0x003240, 0x003244, 0x003248]
    ∧ touched (0xFFFFFE : BitVec 24).toNat ((7 : Fin 8).val + 1) = [0xFFFFFC, 0x1000000, 0x1000004]
    ∧ place base.cfg 0x1000000 = .nothing ∧ place base.cfg 0x1000004 = .nothing
    ∧ place base.cfg 0x500000 = .nothing ∧ place base.cfg 0x000100 = .reg .intr ∧ place base.cfg 0x003244 = .reg .fifoGet
    ∧ place base.cfg 0x7FFFFC = .object 0xFFFFC := by decide +kernel

/-- `RegisterSpaceMap`: what lies at the edges of the apertures, of their channels and of the space. -/
theorem witness_register_space_map :
    place (Config.ofLayout .pre) 0x6FFFFC = .nothing ∧ place (Config.ofLayout .pre) 0x700000 = .object 0
    ∧ place (Config.ofLayout .pre) 0x7FFFFC = .object 0xFFFFC ∧ place (Config.ofLayout .pre) 0x800000 = .nothing
    ∧ place (Config.ofLayout .pre) 0x9F0048 = .shadow 31 .ref ∧ place (Config.ofLayout .pre) 0xA00040 = .nothing
    ∧ place (Config.ofLayout .post) 0xC1F040 = .shadow 31 .put ∧ place (Config.ofLayout .post) 0xC20040 = .nothing
    ∧ place (Config.ofLayout .post) 0x002220 = .reg .fifoRamfc ∧ place (Config.ofLayout .post) 0x002214 = .nothing := by
  decide +kernel

/-- `RegisterWrites`: a register of each kind, one that moves the line and one that does not. -/
theorem witness_register_writes :
    (let s : State := { base with tasks := [.word 0x003240 0x55 0xFF] }
     s.tasks = [.word 0x003240 0x55 0xFF] ∧ place s.cfg 0x003240 = .reg .fifoPut ∧ s.cfg = Config.ofLayout .pre)
    ∧ place base.cfg 0x600100 = .reg .crtcIntr ∧ place base.cfg 0x000100 = .reg .intr
    ∧ Reg.fifoGet ≠ .fifoPut ∧ Reg.fifoGet ≠ .intr := by decide +kernel

/-- `ChannelAperture`: the put location of the current and of another channel, in and outside device memory, and the
locations that ignore writes. -/
theorem witness_channel_aperture :
    place base.cfg 0x800040 = .shadow 0 .put ∧ (0 : ChanId) = base.cur
    ∧ place base.cfg 0x9F0040 = .shadow 31 .put ∧ (31 : ChanId) ≠ base.cur ∧ base.dev.wf = true
    ∧ inVram base.cfg (slotAddr base 31 + base.cfg.fcOff.put) 4 = true
    ∧ (let s : State := { base with ctl := { base.ctl with ramfc := 0xFFFF } }
       inVram s.cfg (slotAddr s 31 + s.cfg.fcOff.put) 4 = false)
    ∧ place base.cfg 0x830044 = .shadow 3 .get ∧ place base.cfg 0x830048 = .shadow 3 .ref
    ∧ place base.cfg 0x83004C = .nothing := by decide +kernel

/-- `ObjectAperture`: two bytes at the end of the aperture. -/
theorem witness_object_aperture :
    place base.cfg 0x7FFFFC = .object 0xFFFFC ∧ base.dev.wf = true ∧ laneMask 0x7FFFFE 4 0x7FFFFC = 0xFFFF0000
    ∧ laneData 0x7FFFFE 4 0xAABBCCDD 0x7FFFFC = 0xCCDD0000 ∧ 0xFFFFC + 4 ≤ base.cfg.vramSize := by decide +kernel

/-- `OtherPorts` and `ResetLeaves`: nothing in progress, and each input; the queue empty and not. -/
theorem witness_other_ports :
    base.tasks = [] ∧ ({ base with inputs := [.extRaise .busIntr 0x10] } : State).inputs = [.extRaise .busIntr 0x10]
    ∧ base.pendq = [] ∧ ({ base with pendq := [⟨0, 3, 0, 0x100, 1⟩], inputs := [.pendTake] } : State).inputs = [.pendTake]
    ∧ ({ base with inputs := [.reset] } : State).inputs = [.reset]
    ∧ ({ base with inputs := [.snapshot] } : State).inputs = [.snapshot]
    ∧ ({ base with inputs := [.restore (Block.reset [])] } : State).inputs = [.restore (Block.reset [])] := by
  decide +kernel

/-- Inside a drain over a memory that is not empty, with a restore to come. -/
def running : State := { draining 0x10 0 4 with inputs := [.restore base.toBlock], irqOut := [false] }

/-- The one block that `running` will be given. -/
theorem restoresMeet_running {P : Block → Prop} (h : P base.toBlock) : RestoresMeet P running := by
  intro b hb
  simp only [running, List.mem_singleton, Input.restore.injEq] at hb
  exact hb ▸ h

/-- `StepKeepsMemoryInv`. -/
theorem witness_memory_inv : MemoryInv running ∧ ∃ t, step running = .next t :=
  ⟨⟨by unfold DevOk; decide +kernel, restoresMeet_running (by unfold DevOk; decide +kernel)⟩, _, rfl⟩

/-- `StepKeepsRegisterInv`. -/
theorem witness_register_inv : RegisterInv running ∧ ∃ t, step running = .next t :=
  ⟨⟨by unfold Ctl.reservedZero; decide +kernel,
    restoresMeet_running (P := fun b => b.ctl.reservedZero running.cfg) (by unfold Ctl.reservedZero; decide +kernel)⟩, _, rfl⟩

/-- Every channel of a block that is as after reset has a consistent upload record. -/
theorem uploadsOk_base : base.toBlock.uploadsOk := by
  intro c
  simp [base, State.reset, State.powerOn, Block.reset, Channel.reset, IfcState.consistent]

/-- `StepKeepsUploadInv`. -/
theorem witness_upload_inv : UploadInv running ∧ ∃ t, step running = .next t :=
  ⟨⟨uploadsOk_base, restoresMeet_running uploadsOk_base⟩, _, rfl⟩

/-- `StepKeepsLineInv` and `StepKeepsDrainInv`. -/
theorem witness_line_and_drain_inv : LineInv running ∧ DrainInv running ∧ ∃ t, step running = .next t :=
  ⟨by unfold LineInv; decide +kernel, by unfold DrainInv; decide +kernel, _, rfl⟩

end Sys2Proof.Tests
end

section
/-! The method numbers of a device (00_scope.md R6 `M_*`, 41_method_dispatch.md R180): `Mthds.rowNumber` said once, a
lemma per branch, and O7 put together from these. -/
namespace Sys2Proof

/-! ## Methods of one number -/

/-- A method of one number has that number and no other. -/
theorem MthdEntry.has_single_iff {base table first : Mthd} {m : Word} :
    (∃ k, MthdEntry.Has { base, table } first m k) ↔ m = first.setWidth 32 := by
  have hlt : first.toNat < 2 ^ 11 := first.isLt
  have hw : (first.setWidth 32).toNat = first.toNat := by simp; omega
  rw [← BitVec.toNat_inj, hw]
  constructor
  · rintro ⟨k, hk, hm, -⟩
    simp only at hk hm
    omega
  · intro hm
    exact ⟨0, by simp, by simp [hm], by omega⟩

/-- A number has a position just where it is one of the method's numbers. -/
theorem MthdEntry.position_isSome_iff {e : MthdEntry} {first : Mthd} {m : Word} (hs : 0 < e.step) :
    (e.position first m).isSome ↔ ∃ k, e.Has first m k := by
  rw [Option.isSome_iff_exists]
  exact ⟨fun ⟨k, hk⟩ => ⟨k, position_has hk⟩, fun ⟨k, hk⟩ => ⟨k, position_of_has hs hk⟩⟩

/-! ## The methods of a route -/

/-- The opcode table lists the methods of a route from `0x040` on (R180). -/
theorem Mthds.onRoute_table_ge (n : Mthds) (r : Route) : ∀ e ∈ n.onRoute r, 0x040 ≤ e.table.toNat := by
  rcases r with _ | _ | _ | c
  · simp [Mthds.onRoute]
  · simp [Mthds.onRoute]
  · simp [Mthds.onRoute, Mthds.graphics]
  · cases c <;> simp [Mthds.onRoute, Mthds.graphics, Mthds.ofClass]

/-- The default numbers of a route's methods are the table's. -/
theorem onRoute_mthdsDefault_same (r : Route) : ∀ e ∈ mthdsDefault.onRoute r, e.base = e.table := by
  rcases r with _ | _ | _ | c
  · decide
  · decide
  · decide
  · cases c <;> decide

/-! ## `tableNumber` where no method has the number -/

/-- A number that no method of the list has, in the device or in the table, stays itself. -/
theorem tableNumber_free {es : List MthdEntry} {m : Word} (hb : ∀ e ∈ es, ∀ k, ¬ e.Has e.base m k)
    (ht : ∀ e ∈ es, ∀ k, ¬ e.Has e.table m k) : tableNumber es m = some m := by
  have hany : es.any (fun e => (e.position e.table m).isSome) = false := by
    rw [List.any_eq_false]
    intro e he
    simp [position_none (ht e he)]
  rw [tableNumber_other hb, hany]
  rfl

/-- A number that only the table gives to a method of the list names none (log entry 3). -/
theorem tableNumber_table_only {es : List MthdEntry} {e : MthdEntry} {m : Word} {k : Nat}
    (hb : ∀ e ∈ es, ∀ k, ¬ e.Has e.base m k) (he : e ∈ es) (hs : 0 < e.step) (ht : e.Has e.table m k) :
    tableNumber es m = none := by
  have hany : es.any (fun e => (e.position e.table m).isSome) = true :=
    List.any_eq_true.2 ⟨e, he, (MthdEntry.position_isSome_iff hs).2 ⟨k, ht⟩⟩
  rw [tableNumber_other hb, hany]
  rfl

/-- Among the channel-global methods only REF_CNT's own number and its number in the table are not free (R184). -/
theorem tableNumber_global {n : Mthds} {m : Word} (h : m ≠ n.refCnt.setWidth 32) :
    tableNumber n.global m = if m = 0x014 then none else some m := by
  have hb : ∀ e ∈ n.global, ∀ k, ¬ e.Has e.base m k := by
    simp only [Mthds.global, List.mem_singleton, forall_eq]
    exact fun k hk => h (MthdEntry.has_single_iff.1 ⟨k, hk⟩)
  by_cases h14 : m = 0x014
  · obtain ⟨k, hk⟩ := (MthdEntry.has_single_iff (base := n.refCnt) (table := 0x014) (first := 0x014)).2 h14
    rw [if_pos h14, tableNumber_table_only hb (List.mem_singleton.2 rfl) Nat.one_pos hk]
  · have ht : ∀ e ∈ n.global, ∀ k, ¬ e.Has e.table m k := by
      simp only [Mthds.global, List.mem_singleton, forall_eq]
      exact fun k hk => h14 (MthdEntry.has_single_iff.1 ⟨k, hk⟩)
    rw [if_neg h14, tableNumber_free hb ht]

/-! ## `Mthds.rowNumber`, a lemma per branch -/

section
variable {n : Mthds} {r : Route} {m : Word}

/-- BIND is 0 in every device (R180). -/
theorem Mthds.rowNumber_zero : n.rowNumber r 0 = some 0 := rfl

/-- The channel-global methods have no number but REF_CNT's. -/
theorem Mthds.global_toTable :
    n.global.findSome? (·.toTable m) = if m = n.refCnt.setWidth 32 then some 0x014 else none := by
  rw [Mthds.global, List.findSome?_cons, List.findSome?_nil]
  by_cases h : m = n.refCnt.setWidth 32
  · obtain ⟨k, hk⟩ := (MthdEntry.has_single_iff (base := n.refCnt) (table := 0x014)).2 h
    have h0 : k = 0 := Nat.lt_one_iff.1 hk.1
    subst h0
    rw [toTable_of_has Nat.one_pos hk, if_pos h]
    rfl
  · rw [toTable_none fun k hk => h (MthdEntry.has_single_iff.1 ⟨k, hk⟩), if_neg h]

/-- REF_CNT comes before the methods of a route, wherever its number lies (log entry 3). -/
theorem Mthds.rowNumber_refCnt (h0 : m ≠ 0) (h : m = n.refCnt.setWidth 32) : n.rowNumber r m = some 0x014 := by
  rw [Mthds.rowNumber, if_neg h0, Mthds.global_toTable, if_pos h]

/-- Up to the last channel-global number no other method is found (R180, R185). -/
theorem Mthds.rowNumber_global (h0 : m ≠ 0) (h : m ≠ n.refCnt.setWidth 32) (hg : m.toNat ≤ n.globalLast.toNat) :
    n.rowNumber r m = if m = 0x014 ∨ 0x040 ≤ m.toNat then none else some m := by
  have hglobal : n.isGlobal m = true := decide_eq_true hg
  rw [Mthds.rowNumber, if_neg h0, Mthds.global_toTable, if_neg h, if_pos hglobal, tableNumber_global h]
  by_cases h14 : m = 0x014
  · simp [h14]
  · rw [if_neg h14, Option.filter_some]
    by_cases h40 : 0x040 ≤ m.toNat
    · simp [h40]
    · rw [if_neg (not_or.2 ⟨h14, h40⟩), if_pos (decide_eq_true (by omega))]

/-- Above the last channel-global number the methods of the route decide (R180). -/
theorem Mthds.rowNumber_route (h : m ≠ n.refCnt.setWidth 32) (hg : n.globalLast.toNat < m.toNat) :
    n.rowNumber r m = (tableNumber (n.onRoute r) m).filter (fun t => decide (0x040 ≤ t.toNat)) := by
  have h0 : m ≠ 0 := by
    rintro rfl
    simp at hg
  have hglobal : ¬ n.isGlobal m = true := by
    rw [Mthds.isGlobal, decide_eq_true_iff]
    omega
  rw [Mthds.rowNumber, if_neg h0, Mthds.global_toTable, if_neg h, if_neg hglobal]

/-- The first method of the route's list that has the number decides. -/
theorem Mthds.rowNumber_first {es rest : List MthdEntry} {e : MthdEntry} {k : Nat}
    (h : m ≠ n.refCnt.setWidth 32) (hg : n.globalLast.toNat < m.toNat) (hr : n.onRoute r = es ++ e :: rest)
    (hs : 0 < e.step) (he : e.Has e.base m k) (hn : ∀ d ∈ es, ∀ k, ¬ d.Has d.base m k) :
    n.rowNumber r m = some (BitVec.ofNat 32 (e.table.toNat + e.step * k)) := by
  have hge : 0x040 ≤ e.table.toNat := n.onRoute_table_ge r e (by simp [hr])
  have htable : e.table.toNat < 2 ^ 11 := e.table.isLt
  have ⟨_, hm, hmlt⟩ := he
  have hfit : e.table.toNat + e.step * k < 2 ^ 32 := by omega
  rw [Mthds.rowNumber_route h hg, hr, tableNumber_first hs he hn, Option.filter_some, if_pos]
  rw [decide_eq_true_iff, BitVec.toNat_ofNat, Nat.mod_eq_of_lt hfit]
  omega

/-- A number that no method of the route has, in the device or in the table, stays itself from `0x040` on. -/
theorem Mthds.rowNumber_free (h : m ≠ n.refCnt.setWidth 32) (hg : n.globalLast.toNat < m.toNat)
    (hb : ∀ e ∈ n.onRoute r, ∀ k, ¬ e.Has e.base m k) (ht : ∀ e ∈ n.onRoute r, ∀ k, ¬ e.Has e.table m k) :
    n.rowNumber r m = if 0x040 ≤ m.toNat then some m else none := by
  rw [Mthds.rowNumber_route h hg, tableNumber_free hb ht, Option.filter_some]
  simp only [decide_eq_true_eq]

/-- A number that only the table gives to a method of the route names none (log entry 3). -/
theorem Mthds.rowNumber_table_only {e : MthdEntry} {k : Nat} (h : m ≠ n.refCnt.setWidth 32)
    (hg : n.globalLast.toNat < m.toNat) (hb : ∀ e ∈ n.onRoute r, ∀ k, ¬ e.Has e.base m k) (he : e ∈ n.onRoute r)
    (hs : 0 < e.step) (ht : e.Has e.table m k) : n.rowNumber r m = none := by
  rw [Mthds.rowNumber_route h hg, tableNumber_table_only hb he hs ht, Option.filter_none]

end

/-- With the default numbers every number is the table's (R6). -/
theorem rowNumber_mthdsDefault (r : Route) (m : Word) : mthdsDefault.rowNumber r m = some m := by
  by_cases h0 : m = 0
  · rw [h0, Mthds.rowNumber_zero]
  by_cases hr : m = mthdsDefault.refCnt.setWidth 32
  · rw [Mthds.rowNumber_refCnt h0 hr, hr]
    rfl
  have hlast : mthdsDefault.globalLast.toNat = 0x03F := rfl
  by_cases hg : m.toNat ≤ mthdsDefault.globalLast.toNat
  · have h14 : m ≠ 0x014 := hr
    have hlow : ¬ 0x040 ≤ m.toNat := by omega
    rw [Mthds.rowNumber_global h0 hr hg, if_neg (not_or.2 ⟨h14, hlow⟩)]
  · have hhigh : 0x040 ≤ m.toNat := by omega
    rw [Mthds.rowNumber_route hr (Nat.lt_of_not_le hg), tableNumber_same (onRoute_mthdsDefault_same r),
      Option.filter_some, if_pos (decide_eq_true hhigh)]

end Sys2Proof

namespace Sys2Proof.Machine

open Sys2Proof

/-! ## The parse slot of a parameter word -/

/-- In parameter mode a number with a row of the table is decoded by that row (R120, R152). -/
theorem slot_of_rowNumber {s : State} {r : Word} (h : s.ch.remaining ≠ 0) (hr : s.rowNumber = some r) :
    s.slot = .param s.route r := by
  rw [State.slot, if_neg h, hr]

/-- In parameter mode a number without a row is no row's (log entry 3). -/
theorem slot_of_no_rowNumber {s : State} (h : s.ch.remaining ≠ 0) (hr : s.rowNumber = none) : s.slot = .noRow := by
  rw [State.slot, if_neg h, hr]

/-- Settles O7, a branch of `Mthds.rowNumber` per clause, and the parse slot for the last two. -/
theorem methodNumbersAreConfigured : Obligations.MethodNumbersAreConfigured := by
  intro s m n has
  refine ⟨fun hdef => ?default, fun h0 => ?bind, Mthds.rowNumber_refCnt, Mthds.rowNumber_global,
    fun hr hg => ⟨?first, Mthds.rowNumber_free hr hg, ?tableOnly⟩, ?row, ?noRow⟩
  case default => exact (congrArg (·.rowNumber s.route m) hdef).trans (rowNumber_mthdsDefault s.route m)
  case bind => exact (congrArg (n.rowNumber s.route) h0).trans Mthds.rowNumber_zero
  case first => exact fun es e rest k hes hs he hn => Mthds.rowNumber_first hr hg hes hs he hn
  case tableOnly => exact fun hb e he k hs ht => Mthds.rowNumber_table_only hr hg hb he hs ht
  case row => exact fun r w h hrow => by rw [slot_of_rowNumber h hrow, decodeWord]
  case noRow => exact fun w h hrow => by rw [slot_of_no_rowNumber h hrow, decodeWord]

end Sys2Proof.Machine
end

section
/-! What a step can do, said once, and that every step keeps device memory canonical (10_state.md R52, 20_memory.md R74):
O55. -/
namespace Sys2Proof.Machine

open Sys2Proof

/-! ## What a step can do -/

/-- Everything a step can do: leave a drain, run an instruction after its fetch, do one word operation of a host write,
visit one channel of a tick, or take an input (log entry 8). -/
theorem step_cases {s t : State} (h : step s = .next t) :
    (∃ ts, s.tasks = .drain :: ts ∧ s.live.get = s.live.put ∧ t = endDrain s)
    ∨ (∃ ts i, s.tasks = .drain :: ts ∧ s.live.get ≠ s.live.put ∧ i = decodeWord s.slot (fetchWord s).1
        ∧ exec i (fetchWord s).2 = .next t)
    ∨ (∃ a v m ts, s.tasks = .word a v m :: ts ∧ t = writeWord a v m { s with tasks := ts })
    ∨ (∃ c ts, s.tasks = .tick c :: ts ∧ t = tickRound c ts s)
    ∨ (s.tasks = [] ∧ t = idleStep s) := by
  unfold step at h
  split at h
  case h_1 ts htasks =>
    unfold drainStep drained at h
    split at h
    case isTrue heq =>
      cases h
      exact .inl ⟨ts, htasks, by simpa using heq, rfl⟩
    case isFalse hne => exact .inr (.inl ⟨ts, _, htasks, by simpa using hne, rfl, h⟩)
  case h_2 a v m ts htasks =>
    cases h
    exact .inr (.inr (.inl ⟨a, v, m, ts, htasks, rfl⟩))
  case h_3 c ts htasks =>
    cases h
    exact .inr (.inr (.inr (.inl ⟨c, ts, htasks, rfl⟩)))
  case h_4 htasks =>
    cases h
    exact .inr (.inr (.inr (.inr ⟨htasks, rfl⟩)))

/-! ## Stores of the host port as effects of a dispatch -/

/-- The five stores of a context switch are writes of device memory. -/
theorem effects_saveLive (slot : Word) (s : State) : Effects s (saveLive slot s) :=
  .seq (.devWrite _ _ _ _) (.seq (.devWrite _ _ _ _) (.seq (.devWrite _ _ _ _)
    (.seq (.devWrite _ _ _ _) (.devWrite _ _ _ _))))

/-- A write through the object-table aperture is writes of device memory. -/
theorem effects_objectWrite (d : Nat) (v m : Word) (s : State) : Effects s (objectWrite d v m s) := by
  refine effects_loop (fun k s => ?_) 4 s
  split
  · exact .devWrite _ _ _ _
  · exact .done _

/-! ## The memory invariant -/

/-- The invariant reads the parameters, device memory and the coming inputs, and nothing else. -/
theorem MemoryInv.congr {s t : State} (h : MemoryInv s) (hcfg : t.cfg = s.cfg) (hdev : t.dev = s.dev)
    (hin : t.inputs = s.inputs) : MemoryInv t := by
  unfold MemoryInv RestoresMeet
  rw [hcfg, hdev, hin]
  exact h

/-- The effects of every dispatch keep the invariant. -/
theorem Effects.memoryInv {s t : State} (he : Effects s t) (h : MemoryInv s) : MemoryInv t := by
  obtain ⟨hdev, hrestore⟩ := h
  have hu := he.untouched
  refine ⟨he.devOk hdev, fun b hb => ?_⟩
  rw [hu.inputs] at hb
  rw [hu.cfg]
  exact hrestore b hb

/-- Every instruction keeps the invariant. -/
theorem exec_keeps_memoryInv {i : Instr} {s t : State} (h : MemoryInv s) (hx : exec i s = .next t) : MemoryInv t := by
  cases hi : i.isParameter with
  | false =>
    obtain ⟨f, g, es, hf, -⟩ := exec_control i hi s
    rw [hf] at hx
    cases hx
    exact h.congr rfl rfl rfl
  | true =>
    obtain ⟨e, he, hcases⟩ := exec_parameter_cases i hi s
    have heffects : MemoryInv e := he.memoryInv (h.congr rfl rfl rfl)
    obtain ⟨hn, -⟩ | ⟨hn, -⟩ := hcases
    all_goals
      rw [hn] at hx
      cases hx
      exact heffects.congr rfl rfl rfl

/-- The fetch of a command word writes no device memory. -/
theorem fetchWord_keeps_memoryInv {s : State} (h : MemoryInv s) : MemoryInv (fetchWord s).2 := by
  rw [fetchWord_frame]
  exact h.congr rfl rfl rfl

/-- A write of a control register writes no device memory. -/
theorem regWrite_keeps_memoryInv {s : State} (h : MemoryInv s) (r : Reg) (v m : Word) : MemoryInv (regWrite r v m s) := by
  unfold regWrite
  rw [regSet_frame]
  split <;> exact h.congr rfl rfl rfl

/-- A write of the put location stores into a save slot, if it writes device memory at all (R335). -/
theorem putWrite_keeps_memoryInv {s : State} (h : MemoryInv s) (c : ChanId) (v m : Word) :
    MemoryInv (putWrite c v m s) := by
  unfold putWrite
  split
  · exact h.congr rfl rfl rfl
  · exact (Effects.devWrite _ _ _ _).memoryInv h

/-- One word operation of a host write keeps the invariant, wherever it lands. -/
theorem writeWord_keeps_memoryInv {s : State} (h : MemoryInv s) (a : Nat) (v m : Word) : MemoryInv (writeWord a v m s) := by
  unfold writeWord
  split
  · exact regWrite_keeps_memoryInv h _ v m
  · exact (effects_objectWrite _ v m s).memoryInv h
  · exact putWrite_keeps_memoryInv h _ v m
  · exact h
  · exact h
  · exact h

/-- A context switch writes device memory by its five stores only (R311). -/
theorem contextSwitch_keeps_memoryInv {s : State} (h : MemoryInv s) (c : ChanId) : MemoryInv (contextSwitch c s) := by
  have hsave : MemoryInv (saveLive (slotAddr s s.cur) s) := (effects_saveLive (slotAddr s s.cur) s).memoryInv h
  unfold contextSwitch
  generalize saveLive (slotAddr s s.cur) s = u at hsave
  exact hsave.congr rfl rfl rfl

theorem makeCurrent_keeps_memoryInv {s : State} (h : MemoryInv s) (c : ChanId) : MemoryInv (makeCurrent c s) := by
  unfold makeCurrent
  split
  · exact h
  · exact contextSwitch_keeps_memoryInv h c

/-- One round of the tick writes device memory in its context switch only. -/
theorem tickRound_keeps_memoryInv {s : State} (h : MemoryInv s) (c : Nat) (ts : List Task) :
    MemoryInv (tickRound c ts s) := by
  unfold tickRound
  split
  · simp only
    split
    · exact (makeCurrent_keeps_memoryInv h _).congr rfl rfl rfl
    · exact h.congr rfl rfl rfl
  · exact h.congr rfl rfl rfl

/-- The first part of a tick writes no device memory. -/
theorem startTick_keeps_memoryInv {s : State} (h : MemoryInv s) : MemoryInv (startTick s) := by
  unfold startTick
  split
  · exact h.congr rfl rfl rfl
  · exact h

/-- An external source sets bits of a register and writes no device memory. -/
theorem extRaise_keeps_memoryInv {s : State} (h : MemoryInv s) (x : ExtReg) (bits : Word) :
    MemoryInv (extRaise x bits s) := by
  unfold extRaise
  rw [regSet_frame]
  exact h.congr rfl rfl rfl

/-- The servicer takes an entry of the queue and writes no device memory. -/
theorem pendTake_keeps_memoryInv {s : State} (h : MemoryInv s) : MemoryInv (pendTake s) := by
  unfold pendTake
  split <;> exact h.congr rfl rfl rfl

/-- Of all inputs only a restore brings in another device memory, which the invariant covers (R349). -/
theorem takeInput_keeps_memoryInv {s : State} (h : MemoryInv s) (i : Input)
    (hi : ∀ b, i = .restore b → DevOk s.cfg b.dev) : MemoryInv (takeInput i s) := by
  cases i with
  | read a size => exact h.congr rfl rfl rfl
  | write a size data => exact h.congr rfl rfl rfl
  | tick => exact startTick_keeps_memoryInv h
  | extRaise x bits => exact extRaise_keeps_memoryInv h x bits
  | pendTake => exact pendTake_keeps_memoryInv h
  | reset => exact h.congr rfl rfl rfl
  | snapshot => exact h.congr rfl rfl rfl
  | restore b => exact ⟨hi b rfl, h.2⟩

/-- A step between two accesses keeps the invariant, for every block that a restore brings in meets it. -/
theorem idleStep_keeps_memoryInv {s : State} (h : MemoryInv s) : MemoryInv (idleStep s) := by
  unfold idleStep
  split
  case h_1 => exact h
  case h_2 i is hin =>
    obtain ⟨hdev, hrestore⟩ := h
    have htail : MemoryInv { s with inputs := is } :=
      ⟨hdev, fun b hb => hrestore b (hin ▸ List.mem_cons_of_mem i hb)⟩
    refine takeInput_keeps_memoryInv htail i fun b hb => hrestore b ?_
    rw [hin, hb]
    exact List.mem_cons_self

/-- Settles O55, along the cases of a step. -/
theorem stepKeepsMemoryInv : Obligations.StepKeepsMemoryInv := by
  intro s t h hstep
  obtain ⟨-, -, -, rfl⟩ | ⟨-, i, -, -, -, hx⟩ | ⟨a, v, m, ts, -, rfl⟩ | ⟨c, ts, -, rfl⟩ | ⟨-, rfl⟩ :=
    step_cases hstep
  · exact h.congr rfl rfl rfl
  · exact exec_keeps_memoryInv (fetchWord_keeps_memoryInv h) hx
  · have hrest : MemoryInv { s with tasks := ts } := h.congr rfl rfl rfl
    exact writeWord_keeps_memoryInv hrest a v m
  · exact tickRound_keeps_memoryInv h c ts
  · exact idleStep_keeps_memoryInv h

end Sys2Proof.Machine
end

section
/-! What no command word touches (10_state.md R22, R26, R27, 40_command_words.md R150, R151): O8. -/
namespace Sys2Proof.Machine

open Sys2Proof

/-- What no command word touches, whether its dispatch fails or not. -/
structure LeavesRest (s t : State) : Prop where
  put : t.live.put = s.live.put
  dmaInstance : t.live.dmaInstance = s.live.dmaInstance
  semaphore : t.live.semaphore = s.live.semaphore
  ctl : t.ctl = { s.ctl with fifoIntr := t.ctl.fifoIntr, grIntr := t.ctl.grIntr, grNsource := t.ctl.grNsource }
  chans : ∀ c, c ≠ s.cur → t.chan c = s.chan c
  cfg : t.cfg = s.cfg
  inputs : t.inputs = s.inputs
  replies : t.replies = s.replies

theorem LeavesRest.cur {s t : State} (h : LeavesRest s t) : t.cur = s.cur := by
  rw [State.cur, State.cur, h.ctl]

theorem LeavesRest.trans {s t u : State} (h : LeavesRest s t) (k : LeavesRest t u) : LeavesRest s u where
  put := k.put.trans h.put
  dmaInstance := k.dmaInstance.trans h.dmaInstance
  semaphore := k.semaphore.trans h.semaphore
  ctl := by rw [k.ctl, h.ctl]
  chans c hc := (k.chans c (h.cur ▸ hc)).trans (h.chans c hc)
  cfg := k.cfg.trans h.cfg
  inputs := k.inputs.trans h.inputs
  replies := k.replies.trans h.replies

/-- The effects of a dispatch are within it. -/
theorem Untouched.leavesRest {s t : State} (h : Untouched s t) : LeavesRest s t where
  put := by rw [h.live]
  dmaInstance := by rw [h.live]
  semaphore := by rw [h.live]
  ctl := h.ctl
  chans := h.chans
  cfg := h.cfg
  inputs := h.inputs
  replies := h.replies

/-- Changing the current record is within it. -/
theorem leavesRest_modCh (f : Channel → Channel) (s : State) : LeavesRest s (modCh f s) :=
  ⟨rfl, rfl, rfl, rfl, fun _ hc => chan_modCh_other f s hc, rfl, rfl, rfl⟩

/-- A dispatch failure moves the cursor back, logs and leaves the drain (R161). -/
theorem leavesRest_dispatchFailed (p : Word) (s : State) : LeavesRest s (dispatchFailed p s) :=
  ⟨rfl, rfl, rfl, rfl, fun _ _ => rfl, rfl, rfl, rfl⟩

/-- A control word is within it, and queues no work. -/
theorem exec_control_leavesRest {i : Instr} (hi : i.isParameter = false) (s : State) :
    ∃ t, exec i s = .next t ∧ LeavesRest s t ∧ t.tasks = s.tasks := by
  obtain ⟨f, g, es, hx, -⟩ := exec_control i hi s
  have hlog : LeavesRest (modCh f s) { modCh f s with live := { s.live with get := g }, events := s.events ++ es } :=
    ⟨rfl, rfl, rfl, rfl, fun _ _ => rfl, rfl, rfl, rfl⟩
  exact ⟨_, hx, (leavesRest_modCh f s).trans hlog, rfl⟩

/-- A parameter word is within it, and queues no work where the oracle lets it through (R195). -/
theorem exec_parameter_leavesRest {i : Instr} (hi : i.isParameter = true) (s : State) :
    ∃ t, exec i s = .next t ∧ LeavesRest s t ∧ (s.failNext = .no → t.tasks = s.tasks) := by
  have htail : LeavesRest s { s with failIn := s.failIn.tail } :=
    ⟨rfl, rfl, rfl, rfl, fun _ _ => rfl, rfl, rfl, rfl⟩
  obtain ⟨e, he, hcases⟩ := exec_parameter_cases i hi s
  have heffects : LeavesRest s e := htail.trans he.untouched.leavesRest
  obtain ⟨hx, -⟩ | ⟨hx, hfail⟩ := hcases
  · exact ⟨_, hx, heffects.trans (leavesRest_modCh _ e), fun _ => he.untouched.tasks⟩
  · exact ⟨_, hx, heffects.trans (leavesRest_dispatchFailed _ e), fun hno => absurd hno hfail⟩

/-- Settles O8, control words and parameter words apart. -/
theorem commandWordsLeaveTheRest : Obligations.CommandWordsLeaveTheRest := by
  intro i s
  obtain ⟨t, hx, h, htasks⟩ : ∃ t, exec i s = .next t ∧ LeavesRest s t
      ∧ (s.failNext = .no ∨ i.isParameter = false → t.tasks = s.tasks) := by
    cases hi : i.isParameter with
    | false =>
      obtain ⟨t, hx, h, htasks⟩ := exec_control_leavesRest hi s
      exact ⟨t, hx, h, fun _ => htasks⟩
    | true =>
      obtain ⟨t, hx, h, htasks⟩ := exec_parameter_leavesRest hi s
      exact ⟨t, hx, h, fun hno => htasks (hno.resolve_right Bool.noConfusion)⟩
  exact ⟨t, hx, h.put, h.dmaInstance, h.semaphore, h.ctl, h.chans, h.cfg, h.inputs, h.replies, htasks⟩

end Sys2Proof.Machine
end

section
/-! The interrupt word and the line (10_state.md R32, R33, 60_exceptions.md R374): O52. -/
namespace Sys2Proof.Machine

open Sys2Proof

/-- The word of one bit as a shift of words. -/
theorem bitMask_eq_shiftLeft (j : Fin 32) : bitMask j = (1 : Word) <<< j.val := by
  apply BitVec.eq_of_toNat_eq
  simp [bitMask]

/-- The word of one bit has that bit and no other. -/
theorem getLsbD_bitMask (j : Fin 32) {k : Nat} (hk : k < 32) : (bitMask j).getLsbD k = (k == j.val) := by
  rw [bitMask_eq_shiftLeft, Bool.eq_iff_iff]
  simp only [BitVec.getLsbD_shiftLeft, BitVec.ofNat_eq_ofNat, BitVec.getLsbD_one, Bool.and_eq_true, decide_eq_true_eq,
    Bool.not_eq_true', decide_eq_false_iff_not, beq_iff_eq]
  omega

/-- The word of one bit is not 0. -/
theorem bitMask_ne_zero (j : Fin 32) : bitMask j ≠ 0 := by
  intro h
  have hbit := getLsbD_bitMask j j.isLt
  rw [h] at hbit
  simp at hbit

/-- What a domain shows in `INTR` (R32): its bit while it has an enabled pending cause. -/
def domainBit (p : Bool) (j : Fin 32) : Word := if p then bitMask j else 0

theorem getLsbD_domainBit (p : Bool) (j : Fin 32) {k : Nat} (hk : k < 32) :
    (domainBit p j).getLsbD k = (k == j.val && p) := by
  cases p
  · simp [domainBit]
  · simpa [domainBit] using getLsbD_bitMask j hk

theorem domainBit_eq_zero (p : Bool) (j : Fin 32) : domainBit p j = 0 ↔ p = false := by
  cases p
  · simp [domainBit]
  · simpa [domainBit] using bitMask_ne_zero j

/-- `INTR` is the or of its four domains' words. -/
theorem intrWord_eq (b : BitPlaces) (r : Ctl) :
    intrWord b r = domainBit (domainPending r.fifoIntr r.fifoIntrEn) b.intrFifo
      ||| domainBit (domainPending r.grIntr r.grIntrEn) b.intrGr
      ||| domainBit (domainPending r.crtcIntr r.crtcIntrEn) b.intrCrtc
      ||| domainBit (domainPending r.busIntr r.busIntrEn) b.intrBus := rfl

/-- `INTR` shows each domain at its configured bit (R32). -/
theorem getLsbD_intrWord (b : BitPlaces) (r : Ctl) {k : Nat} (hk : k < 32) :
    (intrWord b r).getLsbD k =
      ((k == b.intrFifo.val && domainPending r.fifoIntr r.fifoIntrEn)
        || (k == b.intrGr.val && domainPending r.grIntr r.grIntrEn)
        || (k == b.intrCrtc.val && domainPending r.crtcIntr r.crtcIntrEn)
        || (k == b.intrBus.val && domainPending r.busIntr r.busIntrEn)) := by
  simp only [intrWord_eq, BitVec.getLsbD_or, getLsbD_domainBit _ _ hk]

/-- `INTR` is 0 exactly while no domain has an enabled pending cause (R32). -/
theorem intrWord_eq_zero (b : BitPlaces) (r : Ctl) :
    intrWord b r = 0 ↔ domainPending r.fifoIntr r.fifoIntrEn = false ∧ domainPending r.grIntr r.grIntrEn = false
      ∧ domainPending r.crtcIntr r.crtcIntrEn = false ∧ domainPending r.busIntr r.busIntrEn = false := by
  have hor : ∀ x y : Word, x ||| y = 0 ↔ x = 0 ∧ y = 0 := fun x y => BitVec.or_eq_zero_iff
  simp only [intrWord_eq, hor, domainBit_eq_zero, and_assoc]

/-- The line is high exactly while `INTR` is not 0 and the global enable is set (R374). -/
theorem irqLine_iff (b : BitPlaces) (r : Ctl) :
    irqLine b r = true ↔ intrWord b r ≠ 0 ∧ r.intrEn.getLsbD b.globalEnable = true := by
  rw [irqLine, Bool.and_eq_true, Ne, intrWord_eq_zero]
  refine and_congr_left fun _ => ?_
  simp only [Bool.or_eq_true, not_and_or, Bool.not_eq_false]
  tauto

/-- Settles O52. -/
theorem interruptWordAndLine : Obligations.InterruptWordAndLine := by
  refine ⟨fun b r => ⟨fun k hk => getLsbD_intrWord b r hk, irqLine_iff b r⟩, fun l => rfl⟩

end Sys2Proof.Machine
end

section
/-! The register space and its registers (10_state.md R28, 45_host_access.md R320 to R336): O48 and O49. -/
namespace Sys2Proof.Machine

open Sys2Proof

/-! ## The map of the register space, a lemma per branch -/

section
variable {cfg : Config} {a : Nat}

/-- Nothing lies from the end of the register space on (log entry 19). -/
theorem place_beyond (h : 0x1000000 ≤ a) : place cfg a = .nothing := if_pos h

/-- The first control register that is mapped at an address lies there. -/
theorem place_register {e : Nat × Reg} (ha : a < 0x1000000) (hr : cfg.regMap.find? (fun e => e.1 == a) = some e) :
    place cfg a = .reg e.2 := by
  rw [place, if_neg (Nat.not_le.2 ha), hr]

/-- The object-table aperture lies where no control register does (R324). -/
theorem place_object (ha : a < 0x1000000) (hr : cfg.regMap.find? (fun e => e.1 == a) = none)
    (ho : cfg.objApBase ≤ a ∧ a < cfg.objApBase + cfg.objApSize) : place cfg a = .object (a - cfg.objApBase) := by
  rw [place, if_neg (Nat.not_le.2 ha), hr]
  exact if_pos ho

/-- Where the channel aperture lies, each of its strides shows one channel's fields (R332). -/
theorem place_channel {c : ChanId} {o : Nat} (hc : o < cfg.chApStride)
    (ha : cfg.chApBase + c.toNat * cfg.chApStride + o = a) (hlt : a < 0x1000000)
    (hr : cfg.regMap.find? (fun e => e.1 == a) = none)
    (ho : ¬ (cfg.objApBase ≤ a ∧ a < cfg.objApBase + cfg.objApSize)) :
    place cfg a = (shadowAt cfg o).elim .nothing (.shadow c) := by
  have hoff : a - cfg.chApBase = o + cfg.chApStride * c.toNat := by rw [← ha, Nat.mul_comm]; omega
  have hmod : (a - cfg.chApBase) % cfg.chApStride = o := by
    rw [hoff, Nat.add_mul_mod_self_left, Nat.mod_eq_of_lt hc]
  have hdiv : (a - cfg.chApBase) / cfg.chApStride = c.toNat := by
    rw [hoff, Nat.add_mul_div_left _ _ (by omega), Nat.div_eq_of_lt hc, Nat.zero_add]
  have hin : cfg.chApBase ≤ a ∧ a < cfg.chApBase + 32 * cfg.chApStride := by
    have hc32 : (c.toNat + 1) * cfg.chApStride ≤ 32 * cfg.chApStride := Nat.mul_le_mul_right _ c.isLt
    rw [Nat.add_mul] at hc32
    omega
  rw [place, if_neg (Nat.not_le.2 hlt), hr]
  simp only [if_neg ho, if_pos hin, hmod, hdiv, BitVec.ofNat_toNat, BitVec.setWidth_eq]
  cases shadowAt cfg o <;> rfl

/-- Outside the registers and the apertures nothing lies (R321). -/
theorem place_unmapped (hr : cfg.regMap.find? (fun e => e.1 == a) = none)
    (ho : ¬ (cfg.objApBase ≤ a ∧ a < cfg.objApBase + cfg.objApSize))
    (hc : ¬ (cfg.chApBase ≤ a ∧ a < cfg.chApBase + 32 * cfg.chApStride)) : place cfg a = .nothing := by
  rw [place, hr]
  simp only [if_neg ho, if_neg hc, ite_self]

end

/-! ## The default map -/

/-- No default register lies where none of the list does. -/
theorem regMapOf_find_none {l : Layout} {a : Nat} (h : ∀ e ∈ regMapOf l, a ≠ e.1) :
    (Config.ofLayout l).regMap.find? (fun e => e.1 == a) = none :=
  List.find?_eq_none.2 fun e he => by simpa using (h e he).symm

/-- Every default register is found at its offset: no two share one, and all lie below the apertures. -/
theorem regMapOf_find (l : Layout) :
    ∀ e ∈ regMapOf l, (Config.ofLayout l).regMap.find? (fun d => d.1 == e.1) = some e ∧ e.1 < 0x700000 := by
  cases l <;> decide

/-- The default offsets of the channel aperture (R332). -/
theorem shadowAt_ofLayout (l : Layout) (o : Nat) :
    shadowAt (Config.ofLayout l) o = if o = 0x40 then some .put else if o = 0x44 then some .get
      else if o = 0x48 then some .ref else none := rfl

/-- The control registers at their default offsets (R28). -/
theorem place_ofLayout_register (l : Layout) {e : Nat × Reg} (he : e ∈ regMapOf l) :
    place (Config.ofLayout l) e.1 = .reg e.2 := by
  obtain ⟨hfind, hlt⟩ := regMapOf_find l e he
  exact place_register (by omega) hfind

/-- From `0x700000` on there is no default register. -/
theorem regMapOf_find_none_high (l : Layout) {a : Nat} (ha : 0x700000 ≤ a) :
    (Config.ofLayout l).regMap.find? (fun e => e.1 == a) = none :=
  regMapOf_find_none fun e he => by
    have hlt := (regMapOf_find l e he).2
    omega

/-- The default object-table aperture (R320, R324). -/
theorem place_ofLayout_object (l : Layout) {d : Nat} (hd : d < 0x100000) :
    place (Config.ofLayout l) (0x700000 + d) = .object d := by
  have hin : 0x700000 ≤ 0x700000 + d ∧ 0x700000 + d < 0x700000 + 0x100000 := by omega
  rw [place_object (by omega) (regMapOf_find_none_high l (by omega)) hin]
  exact congrArg Place.object (Nat.add_sub_cancel_left 0x700000 d)

/-- The default channel aperture starts behind the object-table aperture and ends inside the register space. -/
theorem chAp_ofLayout (l : Layout) :
    0x800000 ≤ (Config.ofLayout l).chApBase
      ∧ (Config.ofLayout l).chApBase + 32 * (Config.ofLayout l).chApStride ≤ 0x1000000 := by
  cases l <;> decide

/-- The default channel aperture, each channel with its three offsets (R332). -/
theorem place_ofLayout_channel (l : Layout) (c : ChanId) {o : Nat} (ho : o < (Config.ofLayout l).chApStride) :
    place (Config.ofLayout l) ((Config.ofLayout l).chApBase + c.toNat * (Config.ofLayout l).chApStride + o) =
      if o = 0x40 then .shadow c .put else if o = 0x44 then .shadow c .get
      else if o = 0x48 then .shadow c .ref else .nothing := by
  obtain ⟨hbase, hend⟩ := chAp_ofLayout l
  have hc32 : (c.toNat + 1) * (Config.ofLayout l).chApStride ≤ 32 * (Config.ofLayout l).chApStride :=
    Nat.mul_le_mul_right _ c.isLt
  rw [Nat.add_mul] at hc32
  have hobject : ∀ a, 0x800000 ≤ a → ¬ (0x700000 ≤ a ∧ a < 0x700000 + 0x100000) := by omega
  rw [place_channel ho rfl (by omega) (regMapOf_find_none_high l (by omega)) (hobject _ (by omega)), shadowAt_ofLayout]
  split_ifs <;> rfl

/-- Everything else is not in this block (R321). -/
theorem place_ofLayout_nothing (l : Layout) {a : Nat} (hr : ∀ e ∈ regMapOf l, a ≠ e.1)
    (ho : a < 0x700000 ∨ 0x800000 ≤ a)
    (hc : a < (Config.ofLayout l).chApBase
      ∨ (Config.ofLayout l).chApBase + 32 * (Config.ofLayout l).chApStride ≤ a) :
    place (Config.ofLayout l) a = .nothing := by
  have hobject : ¬ (0x700000 ≤ a ∧ a < 0x700000 + 0x100000) := by omega
  exact place_unmapped (regMapOf_find_none hr) hobject (by omega)

/-- Settles O48: the default map of each layout, and the end of the space in every configuration. -/
theorem registerSpaceMap : Obligations.RegisterSpaceMap :=
  ⟨fun l => ⟨fun _ he => place_ofLayout_register l he, fun _ hd => place_ofLayout_object l hd,
    fun c _ ho => place_ofLayout_channel l c ho, fun _ hr ho hc => place_ofLayout_nothing l hr ho hc⟩,
    fun _ _ h => place_beyond h⟩

/-! ## Writes of control registers -/

/-- INTR ignores a write (R329). -/
theorem regWrite_intr (v m : Word) (s : State) : regWrite .intr v m s = s := rfl

/-- A register that holds state takes the written value (R326, R328). -/
theorem regGet_regWrite_same {r : Reg} (h : r ≠ .intr) (v m : Word) (s : State) :
    regGet (regWrite r v m s) r = regWritten s.cfg r (regGet s r) v m := by
  unfold regWrite
  split
  · rw [regGet_updateIrq, regGet_regSet_same h]
  · exact regGet_regSet_same h _ s

/-- No other register that holds state changes. -/
theorem regGet_regWrite_other {r q : Reg} (h : q ≠ r) (hq : q ≠ .intr) (v m : Word) (s : State) :
    regGet (regWrite r v m s) q = regGet s q := by
  unfold regWrite
  split
  · rw [regGet_updateIrq, regGet_regSet_other h hq]
  · exact regGet_regSet_other h hq _ s

/-- A write changes the registers and, where the register moves the line, presents it (R325, R328). -/
theorem regWrite_frame (r : Reg) (v m : Word) (s : State) :
    regWrite r v m s = { s with
      live := (regWrite r v m s).live, ctl := (regWrite r v m s).ctl
      irqOut := if movesIrq r then s.irqOut ++ [irqLine s.cfg.bits (regWrite r v m s).ctl] else s.irqOut } := by
  unfold regWrite
  generalize regWritten s.cfg r (regGet s r) v m = w
  rw [regSet_frame]
  split <;> rfl

/-- What a read-write register takes: the merged value, in its implemented bits (R326). -/
theorem regWritten_rw {r : Reg} (h : accessOf r = .rw) (cfg : Config) (old v m : Word) :
    regWritten cfg r old v m = merge old v m &&& implMask cfg r := by rw [regWritten, h]

/-- What a status register takes: the bits written 1 are cleared (R328). -/
theorem regWritten_w1c {r : Reg} (h : accessOf r = .w1c) (cfg : Config) (old v m : Word) :
    regWritten cfg r old v m = old &&& ~~~(v &&& m) := by rw [regWritten, h]

/-- The registers of the access kind `RW` (R28). -/
def rwRegs : List Reg :=
  [.intrEn, .busIntrEn, .fifoIntrEn, .fifoRamht, .fifoRamfc, .fifoAcquire, .fifoCurchan, .fifoSemaphore, .fifoDmaInstance,
    .fifoPut, .fifoGet, .fifoRef, .grIntrEn, .crtcIntrEn]

theorem mem_rwRegs (r : Reg) : r ∈ rwRegs ↔ accessOf r = .rw := by cases r <;> decide

/-- The registers of the access kind `W1C` (R28). -/
theorem accessOf_w1c (r : Reg) :
    r ∈ [Reg.busIntr, .fifoIntr, .grIntr, .crtcIntr, .grNsource] ↔ accessOf r = .w1c := by cases r <;> decide

/-- The registers whose write re-evaluates the line (R325, R328). -/
theorem movesIrq_iff (r : Reg) :
    movesIrq r = true ↔ r ∈ [Reg.intrEn, .busIntr, .busIntrEn, .fifoIntr, .fifoIntrEn, .grIntr, .grIntrEn, .crtcIntr,
      .crtcIntrEn, .grNsource] := by cases r <;> decide

/-- INTR is the one register that no write changes. -/
theorem ne_intr_of_accessOf {r : Reg} (h : accessOf r ≠ .ro) : r ≠ .intr := by
  rintro rfl
  exact h rfl

/-- A read-write register takes the merged value in its implemented bits (R326). -/
theorem regGet_regWrite_rw {r : Reg} (h : r ∈ rwRegs) (v m : Word) (s : State) :
    regGet (regWrite r v m s) r = merge (regGet s r) v m &&& implMask s.cfg r := by
  rw [mem_rwRegs] at h
  rw [regGet_regWrite_same (ne_intr_of_accessOf (by simp [h])), regWritten_rw h]

/-- A status register clears the bits written 1 (R328). -/
theorem regGet_regWrite_w1c {r : Reg} (h : accessOf r = .w1c) (v m : Word) (s : State) :
    regGet (regWrite r v m s) r = regGet s r &&& ~~~(v &&& m) := by
  rw [regGet_regWrite_same (ne_intr_of_accessOf (by simp [h])), regWritten_w1c h]

/-- A word operation on a control register is the write of that register. -/
theorem step_word_register {s : State} {ts : List Task} {a : Nat} {v m : Word} {r : Reg}
    (htasks : s.tasks = .word a v m :: ts) (hplace : place s.cfg a = .reg r) :
    step s = .next (regWrite r v m { s with tasks := ts }) := by
  rw [step, htasks]
  simp only [writeWord, hplace]

/-- Settles O49: the access kinds, then what each kind takes and what a write leaves. -/
theorem registerWrites : Obligations.RegisterWrites := by
  refine ⟨fun s => by simp [regGet], ?_⟩
  intro s ts a v m r htasks hplace part implemented movesLine
  have himplemented : implemented = rwRegs.map fun q => (q, implMask s.cfg q) := by
    simp only [rwRegs, List.map_cons, List.map_nil, implMask, bitMask_eq_shiftLeft]
    rfl
  refine ⟨fun l hl => ?defaults, _, step_word_register htasks hplace, ?rw, ?w1c, ?intr, ?others, ?frame⟩
  case defaults =>
    rw [himplemented, hl]
    cases l <;> rfl
  case rw =>
    intro e he hr
    rw [himplemented, List.mem_map] at he
    obtain ⟨q, hq, rfl⟩ := he
    subst hr
    exact regGet_regWrite_rw hq v m _
  case w1c => exact fun hr => regGet_regWrite_w1c ((accessOf_w1c r).1 hr) v m _
  case intr =>
    rintro rfl
    exact regWrite_intr v m _
  case others => exact fun q hq hintr => regGet_regWrite_other hq hintr v m _
  case frame =>
    have hmoves : movesIrq r = true ↔ r ∈ movesLine := movesIrq_iff r
    simp only [← hmoves]
    exact regWrite_frame r v m _

end Sys2Proof.Machine
end

section
/-! Device memory accesses, the address translator and the hash resolver (20_memory.md R71 to R74, R81 to R94): O40,
O41 and O42. -/
namespace Sys2Proof.Machine

open Sys2Proof

/-! ## Device memory accesses -/

/-- An access of at most four bytes fits in a word. -/
theorem readLE_lt_word (m : Memory) (a : Nat) {n : Nat} (hn : n ≤ 4) : readLE m a n < 2 ^ 32 :=
  calc readLE m a n < 2 ^ (8 * n) := readLE_lt m a n
    _ ≤ 2 ^ 32 := Nat.pow_le_pow_right (by decide) (by omega)

/-- A read inside device memory, as a number: its bytes little-endian (R71, R73). -/
theorem devRead_toNat {s : State} {a : Word} {n : Nat} (hn : n ≤ 4) (h : a.toNat + n ≤ s.cfg.vramSize) :
    (devRead s a n).toNat = readLE s.dev a.toNat n := by
  rw [devRead_eq h, BitVec.toNat_ofNat, Nat.mod_eq_of_lt (readLE_lt_word s.dev a.toNat hn)]

/-- Settles O40, from the rules of `devRead` and `devWrite` inside and outside device memory. -/
theorem deviceAccesses : Obligations.DeviceAccesses := by
  intro s a n v hwf hsize t
  have hn : n ≤ 4 := by omega
  refine ⟨fun hin => ⟨?bound, fun k hk => ?read, fun k hk => getByte_devWrite_same hwf hin hk,
    fun b hb => getByte_devWrite_other hwf hb, devWrite_frame a n v s⟩,
    fun hout => ⟨devRead_out hout, devWrite_out hout⟩⟩
  case bound => exact devRead_toNat hn hin ▸ readLE_lt s.dev a.toNat n
  case read => rw [devRead_toNat hn hin, byteOf_readLE hk]

/-! ## The address translator -/

/-- Two parts of a word under disjoint masks do not disturb each other: the first is read back. -/
theorem or_disjoint_and_left {p q : Word} (h : p &&& q = 0#32) (x y : Word) :
    ((x &&& p) ||| (y &&& q)) &&& p = x &&& p := by
  ext i hi
  have hbit : (p[i] && q[i]) = false := by rw [← BitVec.getElem_and, h, BitVec.getElem_zero]
  simp only [BitVec.getElem_and, BitVec.getElem_or]
  cases hp : p[i]
  · simp
  · have hq : q[i] = false := by simpa [hp] using hbit
    simp [hq]

/-- The second part is read back too. -/
theorem or_disjoint_and_right {p q : Word} (h : p &&& q = 0#32) (x y : Word) :
    ((x &&& p) ||| (y &&& q)) &&& q = y &&& q := by
  rw [BitVec.or_comm, or_disjoint_and_left (by rw [BitVec.and_comm, h])]

/-- Bit 17 of the first descriptor word is the target (R81). -/
theorem dmaXlate_target (s : State) (obj off : Word) :
    (dmaXlate s obj off).1 = if (devRead s obj 4).getLsbD 17 then .sys else .dev := by
  simp only [dmaXlate, field_bit]
  cases (devRead s obj 4).getLsbD 17 <;> rfl

/-- The address through a linear object, on either memory (R84). -/
theorem dmaXlate_linear_addr {s : State} {obj : Word} (h : (devRead s obj 4).getLsbD 13 = true) (off : Word) :
    (dmaXlate s obj off).2 = (devRead s (obj + 8) 4 &&& pageMask) + (devRead s obj 4 >>> 20) + off := by
  simp only [dmaXlate, field_bit, h, if_true]

/-- The address through a paged object: the frame of the page's entry, and the place in the page (R82, R84). -/
theorem dmaXlate_paged_addr {s : State} {obj : Word} (h : (devRead s obj 4).getLsbD 13 = false) (off : Word) :
    (dmaXlate s obj off).2 =
      (devRead s (obj + 8 + ((off + (devRead s obj 4 >>> 20)) >>> 12) * 4) 4 &&& pageMask)
        ||| ((off + (devRead s obj 4 >>> 20)) &&& 0xFFF) := by
  simp only [dmaXlate, field_bit, h]
  rfl

/-- Translation keeps no state: it depends on device memory and its size (R89). -/
theorem dmaXlate_congr {s u : State} (hd : u.dev = s.dev) (hc : u.cfg = s.cfg) (obj off : Word) :
    dmaXlate u obj off = dmaXlate s obj off :=
  dmaXlate_steady hc fun _ _ _ _ => by rw [hd]

/-- Settles O41: target, the two kinds of object, and what the result depends on. -/
theorem dmaTranslation : Obligations.DmaTranslation := by
  refine ⟨fun s obj off => ?_, fun s s' obj off hd hc => dmaXlate_congr hd hc obj off⟩
  intro word0 adjust adj page entry r
  have hdisjoint : pageMask &&& 0xFFF = 0 := by decide
  refine ⟨?target, fun hlinear => dmaXlate_linear_addr hlinear off, fun hpaged => ?paged⟩
  case target =>
    rw [show r.1 = _ from dmaXlate_target s obj off]
    cases (devRead s obj 4).getLsbD 17 <;> simp
  case paged =>
    rw [show r.2 = (entry &&& pageMask) ||| (adj &&& 0xFFF) from dmaXlate_paged_addr hpaged off]
    exact ⟨or_disjoint_and_left hdisjoint entry adj, or_disjoint_and_right hdisjoint entry adj⟩

/-! ## The hash of a handle -/

/-- Chunk `k` of a handle: the `k`-th of its slices of the given width (R93). -/
def hashChunk (bits : Nat) (handle : Word) (k : Nat) : Word :=
  (handle >>> (bits * k)) &&& BitVec.ofNat 32 (2 ^ bits - 1)

/-- Nothing is left to fold. -/
theorem xorFold_zero (bits k : Nat) (h : Word) : xorFold bits k h 0#32 = h := by cases k <;> rfl

/-- One round of the fold takes the lowest chunk; the test for an end only saves rounds that change nothing. -/
theorem xorFold_succ (bits k : Nat) (h x : Word) :
    xorFold bits (k + 1) h x = xorFold bits k (h ^^^ (x &&& BitVec.ofNat 32 (2 ^ bits - 1))) (x >>> bits) := by
  rw [xorFold]
  split
  next hx => simp [hx, xorFold_zero]
  next => rfl

/-- A round of the fold on a shifted handle takes its chunk. -/
theorem xorFold_chunk (bits k j : Nat) (h handle : Word) :
    xorFold bits (k + 1) h (handle >>> (bits * j)) =
      xorFold bits k (h ^^^ hashChunk bits handle j) (handle >>> (bits * (j + 1))) := by
  rw [xorFold_succ, Nat.mul_succ, BitVec.shiftRight_add]
  rfl

/-- Four chunks of nine bits or more exhaust a handle, so the fold is their exclusive-or (R93). -/
theorem xorFold_handle {bits : Nat} (hbits : 9 ≤ bits) (handle : Word) :
    xorFold bits 32 0 handle = hashChunk bits handle 0 ^^^ hashChunk bits handle 1 ^^^ hashChunk bits handle 2
      ^^^ hashChunk bits handle 3 := by
  have hstart : handle = handle >>> (bits * 0) := by simp
  have hend : handle >>> (bits * 4) = 0#32 := BitVec.ushiftRight_eq_zero (by omega)
  calc xorFold bits 32 0 handle
      = xorFold bits 32 0 (handle >>> (bits * 0)) := by rw [← hstart]
    _ = 0 ^^^ hashChunk bits handle 0 ^^^ hashChunk bits handle 1 ^^^ hashChunk bits handle 2
          ^^^ hashChunk bits handle 3 := by
      rw [xorFold_chunk, xorFold_chunk, xorFold_chunk, xorFold_chunk, hend, xorFold_zero]
    _ = _ := by rw [BitVec.ofNat_eq_ofNat, BitVec.zero_xor]

theorem hashOf_eq {bits : Nat} (hbits : 9 ≤ bits) (handle : Word) (c : ChanId) :
    hashOf bits handle c = hashChunk bits handle 0 ^^^ hashChunk bits handle 1 ^^^ hashChunk bits handle 2
      ^^^ hashChunk bits handle 3 ^^^ ((chidWord c &&& 0xF) <<< (bits - 4)) := by
  rw [hashOf, xorFold_handle hbits]

theorem hashChunk_lt {bits : Nat} (hbits : bits ≤ 32) (handle : Word) (k : Nat) :
    (hashChunk bits handle k).toNat < 2 ^ bits := by
  rw [hashChunk, and_mask_toNat _ _ hbits]
  exact Nat.mod_lt _ (Nat.two_pow_pos bits)

/-- The channel's four bits are the top bits of a slot number (R93). -/
theorem chidTerm_lt {bits : Nat} (hbits : 4 ≤ bits) (c : ChanId) :
    ((chidWord c &&& 0xF) <<< (bits - 4)).toNat < 2 ^ bits := by
  have hfour : (chidWord c &&& 0xF).toNat < 2 ^ 4 := by
    rw [show (0xF : Word) = BitVec.ofNat 32 (2 ^ 4 - 1) from rfl, and_mask_toNat _ _ (by decide)]
    exact Nat.mod_lt _ (by decide)
  calc ((chidWord c &&& 0xF) <<< (bits - 4)).toNat
      ≤ (chidWord c &&& 0xF).toNat * 2 ^ (bits - 4) := by
        rw [BitVec.toNat_shiftLeft, Nat.shiftLeft_eq]
        exact Nat.mod_le _ _
    _ < 2 ^ 4 * 2 ^ (bits - 4) := Nat.mul_lt_mul_of_pos_right hfour (Nat.two_pow_pos _)
    _ = 2 ^ bits := by rw [← Nat.pow_add, Nat.add_sub_cancel' hbits]

/-- The hash is a slot number (R93). -/
theorem hashOf_lt {bits : Nat} (hbits : 9 ≤ bits) (handle : Word) (c : ChanId) :
    (hashOf bits handle c).toNat < 2 ^ bits := by
  by_cases hword : bits ≤ 32
  · have hchunk := hashChunk_lt hword handle
    simp only [hashOf_eq hbits, BitVec.toNat_xor]
    exact Nat.xor_lt_two_pow (Nat.xor_lt_two_pow (Nat.xor_lt_two_pow (Nat.xor_lt_two_pow (hchunk 0) (hchunk 1))
      (hchunk 2)) (hchunk 3)) (chidTerm_lt (by omega) c)
  · exact lt_of_lt_of_le (BitVec.isLt _) (Nat.pow_le_pow_right (by decide) (by omega))

/-! ## The slots of the table -/

/-- The address of slot `i` (R90). -/
def hashSlot (s : State) (i : Nat) : Word := htBase s + BitVec.ofNat 32 (i * 8)

/-- The context word of slot `i` (R90). -/
def slotContext (s : State) (i : Nat) : Word := devRead s (hashSlot s i + 4) 4

/-- Slot `i` holds the handle, and its context word the channel (R94). -/
def SlotMatches (s : State) (handle : Word) (c : ChanId) (i : Nat) : Prop :=
  devRead s (hashSlot s i) 4 = handle ∧ ctxChid s.cfg (slotContext s i) = chidWord c

/-- What a lookup that ends at slot `i` answers (R94). -/
def slotAnswer (s : State) (i : Nat) : Word × Word :=
  (ctxObj s.cfg (slotContext s i), ctxEng s.cfg (slotContext s i))

/-- The `k`-th slot after slot `i`, with wraparound (R94). -/
def probedSlot (s : State) (i k : Nat) : Nat := (i + k) % 2 ^ htBits s

theorem probedSlot_zero {s : State} {i : Nat} (h : i < 2 ^ htBits s) : probedSlot s i 0 = i := Nat.mod_eq_of_lt h

theorem probedSlot_succ (s : State) (i k : Nat) : probedSlot s i (k + 1) = (probedSlot s i k + 1) % 2 ^ htBits s := by
  rw [probedSlot, probedSlot, Nat.mod_add_mod, Nat.add_assoc]

theorem probedSlot_lt (s : State) (i k : Nat) : probedSlot s i k < 2 ^ htBits s := Nat.mod_lt _ (Nat.two_pow_pos _)

/-- The slot behind the last one is the first one (R94). -/
theorem next_slot_offset {i n : Nat} (h : i < n) :
    (if i * 8 + 8 ≥ n * 8 then 0 else i * 8 + 8) = (i + 1) % n * 8 := by
  by_cases hlast : i + 1 = n
  · rw [if_pos (by omega), hlast, Nat.mod_self, Nat.zero_mul]
  · rw [if_neg (by omega), Nat.mod_eq_of_lt (by omega), Nat.succ_mul]

/-! ## The probe loop -/

section
variable {s : State} {handle : Word} {c : ChanId} {i : Nat}

/-- The probe loop ends at a slot that matches. -/
theorem hashProbe_match (h : SlotMatches s handle c i) (k : Nat) :
    hashProbe s handle c (k + 1) (i * 8) = some (slotAnswer s i) := by
  obtain ⟨hhandle, hchid⟩ := h
  rw [hashSlot] at hhandle
  rw [slotContext, hashSlot] at hchid
  simp only [hashProbe, hhandle, hchid, if_true]
  rfl

/-- At any other slot it goes on with the next one. -/
theorem hashProbe_no_match (hi : i < 2 ^ htBits s) (h : ¬ SlotMatches s handle c i) (k : Nat) :
    hashProbe s handle c (k + 1) (i * 8) = hashProbe s handle c k ((i + 1) % 2 ^ htBits s * 8) := by
  simp only [hashProbe, next_slot_offset hi]
  split
  next hhandle => exact if_neg fun hchid => h ⟨hhandle, hchid⟩
  next => rfl

/-- The slots that do not match are passed over in probe order. -/
theorem hashProbe_skip {k : Nat} (hi : i < 2 ^ htBits s)
    (hmiss : ∀ j, j < k → ¬ SlotMatches s handle c (probedSlot s i j)) (n : Nat) :
    hashProbe s handle c (k + n) (i * 8) = hashProbe s handle c n (probedSlot s i k * 8) := by
  induction k generalizing n with
  | zero => rw [Nat.zero_add, probedSlot_zero hi]
  | succ k ih =>
    calc hashProbe s handle c (k + 1 + n) (i * 8)
        = hashProbe s handle c (k + (n + 1)) (i * 8) := by rw [Nat.add_assoc, Nat.add_comm 1 n]
      _ = hashProbe s handle c (n + 1) (probedSlot s i k * 8) := ih (fun j hj => hmiss j (Nat.lt_succ_of_lt hj)) _
      _ = hashProbe s handle c n (probedSlot s i (k + 1) * 8) := by
        rw [hashProbe_no_match (probedSlot_lt s i k) (hmiss k (Nat.lt_succ_self k)), ← probedSlot_succ]

/-- The first match in probe order decides the lookup (R94). -/
theorem hashProbe_first {n k : Nat} (hi : i < 2 ^ htBits s) (hk : k < n)
    (hmatch : SlotMatches s handle c (probedSlot s i k))
    (hfirst : ∀ j, j < k → ¬ SlotMatches s handle c (probedSlot s i j)) :
    hashProbe s handle c n (i * 8) = some (slotAnswer s (probedSlot s i k)) := by
  obtain ⟨m, rfl⟩ := Nat.exists_eq_add_of_lt hk
  rw [Nat.add_assoc, hashProbe_skip hi hfirst, hashProbe_match hmatch]

/-- The probe loop fails exactly where no slot that it probes matches: of several matches one is the first. -/
theorem hashProbe_eq_none_iff {n : Nat} (hi : i < 2 ^ htBits s) :
    hashProbe s handle c n (i * 8) = none ↔ ∀ k, k < n → ¬ SlotMatches s handle c (probedSlot s i k) := by
  constructor
  · intro hfails k hk
    induction k using Nat.strong_induction_on with
    | _ k ih =>
      intro hmatch
      have hfound := hashProbe_first hi hk hmatch fun j hj => ih j hj (hj.trans hk)
      rw [hfails] at hfound
      cases hfound
  · intro hnone
    exact hashProbe_skip hi hnone 0

end

/-! ## The lookup -/

/-- A table has at least 512 slots (R29). -/
theorem nine_le_htBits (s : State) : 9 ≤ htBits s := Nat.le_add_left 9 _

/-- The first slot probed is one of the table's. -/
theorem hashStart_lt (s : State) (handle : Word) (c : ChanId) :
    (hashOf (htBits s) handle c).toNat < 2 ^ htBits s := hashOf_lt (nine_le_htBits s) handle c

/-- The default fields of the table register (R29). -/
theorem ramht_default {s : State} (h : s.cfg.ramht = ramhtDefault) :
    htBits s = ((s.ctl.ramht >>> 16) &&& 3).toNat + 9 ∧ htBase s = ((s.ctl.ramht >>> 4) &&& 0x1F) <<< 12 := by
  rw [htBits, htBase, h]
  exact ⟨rfl, rfl⟩

/-- The fields of a context word before the generation threshold (R92). -/
theorem ctx_pre {cfg : Config} (h : cfg.ctx = ctxLayoutOf .pre) :
    ctxChid cfg = (fun x : Word => (x >>> 24) &&& 0x1F) ∧ ctxEng cfg = (fun x : Word => (x >>> 16) &&& 0xFF)
      ∧ ctxObj cfg = fun x : Word => (x &&& 0xFFFF) <<< 4 := by
  refine ⟨funext fun x => ?_, funext fun x => ?_, funext fun x => ?_⟩
  · rw [ctxChid, h]; rfl
  · rw [ctxEng, h]; rfl
  · rw [ctxObj, h]; rfl

/-- The fields of a context word from the generation threshold on (R92). -/
theorem ctx_post {cfg : Config} (h : cfg.ctx = ctxLayoutOf .post) :
    ctxChid cfg = (fun x : Word => (x >>> 23) &&& 0x1F) ∧ ctxEng cfg = (fun x : Word => (x >>> 20) &&& 0x7)
      ∧ ctxObj cfg = fun x : Word => (x &&& 0xFFFFF) <<< 4 := by
  refine ⟨funext fun x => ?_, funext fun x => ?_, funext fun x => ?_⟩
  · rw [ctxChid, h]; rfl
  · rw [ctxEng, h]; rfl
  · rw [ctxObj, h]; rfl

/-- A lookup that finds an object records nothing. -/
theorem hashLookup_found {handle : Word} {s : State} (h : hashFind s handle s.cur ≠ none) :
    hashLookup handle s = (hashFind s handle s.cur, s) := by
  obtain ⟨r, hr⟩ := Option.ne_none_iff_exists'.1 h
  rw [hashLookup, hr]

/-- A lookup that fails records `EV2` (R94). -/
theorem hashLookup_failed {handle : Word} {s : State} (h : hashFind s handle s.cur = none) :
    hashLookup handle s = (none, logEvent (.ev2 handle s.cur) s) := by rw [hashLookup, h]

/-- HashLookup answers what its search finds. -/
theorem hashLookup_fst (handle : Word) (s : State) : (hashLookup handle s).1 = hashFind s handle s.cur := by
  by_cases h : hashFind s handle s.cur = none
  · rw [hashLookup_failed h, h]
  · rw [hashLookup_found h]

/-- Settles O42: the hash and the probe loop give the search in the configured fields; the two tables of R92 are
cases of it. -/
theorem lookupFindsTheFirstMatch : Obligations.LookupFindsTheFirstMatch := by
  intro s handle c part bits base n chunk chid start slot ctx finds
  have hstart : (hashOf (htBits s) handle c).toNat = start :=
    congrArg BitVec.toNat (hashOf_eq (nine_le_htBits s) handle c)
  have hlt : start < n := hstart ▸ hashStart_lt s handle c
  have hfind : hashFind s handle c = hashProbe s handle c n (start * 8) := by rw [← hstart]; rfl
  have hfinds : finds (ctxChid s.cfg) (ctxEng s.cfg) (ctxObj s.cfg) :=
    ⟨hfind ▸ hashProbe_eq_none_iff hlt, fun k hk hhit hfirst => hfind ▸ hashProbe_first hlt hk hhit hfirst⟩
  refine ⟨ramht_default, hlt, hfinds, fun hpre => ?pre, fun hpost => ?post, hashLookup_fst handle s,
    fun h => congrArg Prod.snd (hashLookup_found h), fun h => congrArg Prod.snd (hashLookup_failed h)⟩
  case pre =>
    obtain ⟨hchid, heng, hobj⟩ := ctx_pre hpre
    rwa [hchid, heng, hobj] at hfinds
  case post =>
    obtain ⟨hchid, heng, hobj⟩ := ctx_post hpost
    rwa [hchid, heng, hobj] at hfinds

end Sys2Proof.Machine
end

section
/-! Control words (30_encoding.md R121 to R127, R133, R135): an equation of the decoder per row, that every word is in one
of them, and decoding after encoding. -/
namespace Sys2Proof

/-! ## Masks -/

/-- A word meets no test that contradicts one it meets (R133). -/
theorem and_ne_of_and {w a b a' b' : Word} (h : w &&& a = b) (hd : b &&& a' ≠ b' &&& a) : w &&& a' ≠ b' := by
  rintro rfl
  exact hd (by rw [← h, BitVec.and_assoc, BitVec.and_assoc, BitVec.and_comm a])

/-- A word that meets a test is none that fails it. -/
theorem ne_of_and {w a b v : Word} (h : w &&& a = b) (hv : v &&& a ≠ b) : w ≠ v := by
  rintro rfl
  exact hv h

/-- Two masks that cover the word between them, the second with a known result: nothing of the word is lost. -/
theorem and_or_of_covers {w a b c : Word} (h : w &&& a = b) (hc : c ||| a = BitVec.allOnes 32) :
    (w &&& c) ||| b = w := by
  rw [← h, ← BitVec.and_or_distrib_left, hc, BitVec.and_allOnes]

/-- An operand clear of a row's test, joined with the row's fixed bits: the test is met, and the operand reads back. -/
theorem operand_or_pattern {x a b c : Word} (h : x &&& a = 0) (hb : b &&& a = b) (hc : b &&& c = 0)
    (hcover : c ||| a = BitVec.allOnes 32) : (x ||| b) &&& a = b ∧ (x ||| b) &&& c = x := by
  constructor
  · rw [BitVec.and_or_distrib_right, h, hb]
    exact BitVec.zero_or
  · rw [BitVec.and_or_distrib_right, hc]
    exact and_or_of_covers h hcover

/-- One more bit under test: its value is 0 or 1. -/
theorem and_or_twoPow {w a b : Word} (k : Nat) (h : w &&& a = b) :
    w &&& (a ||| BitVec.twoPow 32 k) = b ∨ w &&& (a ||| BitVec.twoPow 32 k) = b ||| BitVec.twoPow 32 k := by
  rw [BitVec.and_or_distrib_left, h, BitVec.and_twoPow]
  split
  · exact .inr rfl
  · exact .inl (BitVec.or_zero)

/-! ## Control words, an equation per row -/

section
variable {w : Word}

/-- `JMPL` (R122) -/
theorem decodeControl_jmpl (h : w &&& 0xE0000003 = 0x20000000) : decodeControl w = .jmpl (w &&& 0x1FFFFFFF) := by
  rw [decodeControl, if_pos h]

/-- `JMP` (R123) -/
theorem decodeControl_jmp (h : w &&& 0x00000003 = 0x00000001) : decodeControl w = .jmp (w &&& 0xFFFFFFFC) := by
  rw [decodeControl, if_neg (and_ne_of_and h (by decide)), if_pos h]

/-- `CALL` (R124) -/
theorem decodeControl_call (h : w &&& 0x00000003 = 0x00000002) : decodeControl w = .call (w &&& 0xFFFFFFFC) := by
  rw [decodeControl, if_neg (and_ne_of_and h (by decide)), if_neg (and_ne_of_and h (by decide)), if_pos h]

/-- `RET` (R125) -/
theorem decodeControl_ret : decodeControl 0x00020000 = .ret := rfl

/-- R126: the fields of a header are slices of the word. -/
theorem decodeControl_header (h : w &&& 0xA0030003 = 0) :
    decodeControl w =
      if w.getLsbD 30 then .hdrNi (w.extractLsb' 13 3) (w.extractLsb' 2 11) (w.extractLsb' 18 11)
      else .hdr (w.extractLsb' 13 3) (w.extractLsb' 2 11) (w.extractLsb' 18 11) := by
  rw [decodeControl, if_neg (and_ne_of_and h (by decide)), if_neg (and_ne_of_and h (by decide)),
    if_neg (and_ne_of_and h (by decide)), if_neg (ne_of_and h (by decide)), if_pos h]
  simp only [field_setWidth 13 3 w (by decide) (by decide), field_setWidth 2 11 w (by decide) (by decide),
    field_setWidth 18 11 w (by decide) (by decide), field_bit]
  cases w.getLsbD 30 <;> rfl

/-- A word whose test contradicts those of the rows before `CW.BAD` is in the rows of R127. -/
theorem decodeControl_malformed {a b : Word} (h : w &&& a = b) (hret : w ≠ 0x00020000)
    (hearlier : b &&& 0xE0000003 ≠ 0x20000000 &&& a ∧ b &&& 0x00000003 ≠ 0x00000001 &&& a
      ∧ b &&& 0x00000003 ≠ 0x00000002 &&& a ∧ b &&& 0xA0030003 ≠ 0 &&& a) :
    decodeControl w =
      if w &&& 0x00000003 = 0x00000003 then .badLow11 w
      else if w &&& 0x80000003 = 0x80000000 then .badB31 w
      else if w &&& 0xE0000003 = 0x60000000 then .badB3029 w
      else if w &&& 0xA0010003 = 0x00010000 then .badB16 w
      else .badB17 w := by
  obtain ⟨hjmpl, hjmp, hcall, hheader⟩ := hearlier
  rw [decodeControl, if_neg (and_ne_of_and h hjmpl), if_neg (and_ne_of_and h hjmp), if_neg (and_ne_of_and h hcall),
    if_neg hret, if_neg (and_ne_of_and h hheader)]

/-- `CW.BAD` with `w[1:0] = 11` (R127, R133) -/
theorem decodeControl_badLow11 (h : w &&& 0x00000003 = 0x00000003) : decodeControl w = .badLow11 w := by
  rw [decodeControl_malformed h (ne_of_and h (by decide)) (by decide), if_pos h]

/-- `CW.BAD` with bit 31 (R127, R133) -/
theorem decodeControl_badB31 (h : w &&& 0x80000003 = 0x80000000) : decodeControl w = .badB31 w := by
  rw [decodeControl_malformed h (ne_of_and h (by decide)) (by decide), if_neg (and_ne_of_and h (by decide)), if_pos h]

/-- `CW.BAD` with `w[31:29] = 011` (R127, R133) -/
theorem decodeControl_badB3029 (h : w &&& 0xE0000003 = 0x60000000) : decodeControl w = .badB3029 w := by
  rw [decodeControl_malformed h (ne_of_and h (by decide)) (by decide), if_neg (and_ne_of_and h (by decide)),
    if_neg (and_ne_of_and h (by decide)), if_pos h]

/-- `CW.BAD` with bit 16 (R127, R133) -/
theorem decodeControl_badB16 (h : w &&& 0xA0010003 = 0x00010000) : decodeControl w = .badB16 w := by
  rw [decodeControl_malformed h (ne_of_and h (by decide)) (by decide), if_neg (and_ne_of_and h (by decide)),
    if_neg (and_ne_of_and h (by decide)), if_neg (and_ne_of_and h (by decide)), if_pos h]

/-- `CW.BAD` with bit 17, where the word is not the return word (R127, R133) -/
theorem decodeControl_badB17 (h : w &&& 0xA0030003 = 0x00020000) (hret : w ≠ 0x00020000) :
    decodeControl w = .badB17 w := by
  rw [decodeControl_malformed h hret (by decide), if_neg (and_ne_of_and h (by decide)),
    if_neg (and_ne_of_and h (by decide)), if_neg (and_ne_of_and h (by decide)), if_neg (and_ne_of_and h (by decide))]

end

/-- The tests of the control rows (R121, R127, R133). -/
inductive ControlRow (w : Word) : Prop where
  | jmpl (h : w &&& 0xE0000003 = 0x20000000)
  | jmp (h : w &&& 0x00000003 = 0x00000001)
  | call (h : w &&& 0x00000003 = 0x00000002)
  | ret (h : w = 0x00020000)
  | header (h : w &&& 0xA0030003 = 0)
  | badLow11 (h : w &&& 0x00000003 = 0x00000003)
  | badB31 (h : w &&& 0x80000003 = 0x80000000)
  | badB3029 (h : w &&& 0xE0000003 = 0x60000000)
  | badB16 (h : w &&& 0xA0010003 = 0x00010000)
  | badB17 (h : w &&& 0xA0030003 = 0x00020000) (hret : w ≠ 0x00020000)

/-- Every word meets the test of a control row: bit after bit, the rows take the words with that bit 1. -/
theorem controlRow_exists (w : Word) : ControlRow w := by
  have h : w &&& 0 = 0 := BitVec.and_zero
  rcases and_or_twoPow 0 h with h | h <;> rcases and_or_twoPow 1 h with hlow | h
  · rcases and_or_twoPow 31 hlow with h | h
    · rcases and_or_twoPow 29 h with h | h
      · rcases and_or_twoPow 16 h with h | h
        · rcases and_or_twoPow 17 h with h | h
          · exact .header h
          · by_cases hret : w = 0x00020000
            · exact .ret hret
            · exact .badB17 h hret
        · exact .badB16 h
      · rcases and_or_twoPow 30 h with h | h
        · exact .jmpl h
        · exact .badB3029 h
    · exact .badB31 h
  · exact .call h
  · exact .jmp hlow
  · exact .badLow11 h

/-! ## Fields of a word -/

/-- The bits of a word in which a field of `k` bits from bit `lo` on lies. -/
def fieldMask (lo k : Nat) : Word := (BitVec.allOnes k).setWidth 32 <<< lo

/-- A field put at its place has no bit outside it. -/
theorem shiftLeft_and_fieldMask {k : Nat} (x : BitVec k) (lo : Nat) :
    (x.setWidth 32 <<< lo) &&& fieldMask lo k = x.setWidth 32 <<< lo := by
  ext i hi
  by_cases hlt : i - lo < k
  · simp +contextual [fieldMask, hlt]
  · simp [BitVec.getLsbD_of_ge x (i - lo) (Nat.le_of_not_lt hlt)]

/-- A field put at its place has no bit of a mask that keeps clear of it. -/
theorem shiftLeft_and_eq_zero {k : Nat} (x : BitVec k) (lo : Nat) {a : Word} (ha : fieldMask lo k &&& a = 0#32) :
    (x.setWidth 32 <<< lo) &&& a = 0#32 := by
  rw [← shiftLeft_and_fieldMask, BitVec.and_assoc, ha, BitVec.and_zero]

/-- A slice of a word put back at its place is the word's bits there. -/
theorem extractLsb'_shiftLeft (w : Word) (lo k : Nat) :
    (w.extractLsb' lo k).setWidth 32 <<< lo = w &&& fieldMask lo k := by
  ext i hi
  by_cases hlo : lo ≤ i
  · simp [fieldMask, hi, hlo, Nat.not_lt.2 hlo, Bool.and_comm]
  · simp [fieldMask, Nat.not_le.1 hlo]

/-- A word whose bits in a field's place are the field's has it as its slice. -/
theorem extractLsb'_of_and {w : Word} {lo k : Nat} {x : BitVec k} (h : w &&& fieldMask lo k = x.setWidth 32 <<< lo)
    (hk : lo + k ≤ 32) : w.extractLsb' lo k = x := by
  ext i hi
  have hbit := congrArg (·.getLsbD (lo + i)) h
  have hlt : lo + i < 32 := by omega
  simpa [fieldMask, hi, hlt, Nat.lt_of_le_of_lt (Nat.le_add_left i lo) hlt] using hbit

/-! ## Header words -/

section
variable (ni : Bool) (subc : SubId) (mthd : Mthd) (count : BitVec 11)

/-- The four fields of a header word at their places (R126, R135). -/
theorem headerWord_fields :
    headerWord ni subc mthd count = ((BitVec.ofBool ni).setWidth 32 <<< 30) ||| (count.setWidth 32 <<< 18)
      ||| (subc.setWidth 32 <<< 13) ||| (mthd.setWidth 32 <<< 2) := by
  cases ni <;> rfl

/-- A mask of a header word is a mask of each of its fields. -/
theorem headerWord_and (a : Word) :
    headerWord ni subc mthd count &&& a =
      (((BitVec.ofBool ni).setWidth 32 <<< 30) &&& a) ||| ((count.setWidth 32 <<< 18) &&& a)
        ||| ((subc.setWidth 32 <<< 13) &&& a) ||| ((mthd.setWidth 32 <<< 2) &&& a) := by
  rw [headerWord_fields, BitVec.and_or_distrib_right, BitVec.and_or_distrib_right, BitVec.and_or_distrib_right]

theorem headerWord_fixedBits : headerWord ni subc mthd count &&& 0xA0030003 = 0 := by
  rw [headerWord_and, shiftLeft_and_eq_zero _ 30 rfl, shiftLeft_and_eq_zero count 18 rfl,
    shiftLeft_and_eq_zero subc 13 rfl, shiftLeft_and_eq_zero mthd 2 rfl]
  rfl

theorem headerWord_ni : (headerWord ni subc mthd count).getLsbD 30 = ni := by
  cases ni <;> simp [headerWord]

theorem headerWord_count : (headerWord ni subc mthd count).extractLsb' 18 11 = count := by
  refine extractLsb'_of_and ?_ (by decide)
  rw [headerWord_and, shiftLeft_and_eq_zero _ 30 rfl, shiftLeft_and_fieldMask count, shiftLeft_and_eq_zero subc 13 rfl,
    shiftLeft_and_eq_zero mthd 2 rfl, BitVec.zero_or, BitVec.or_zero, BitVec.or_zero]

theorem headerWord_subc : (headerWord ni subc mthd count).extractLsb' 13 3 = subc := by
  refine extractLsb'_of_and ?_ (by decide)
  rw [headerWord_and, shiftLeft_and_eq_zero _ 30 rfl, shiftLeft_and_eq_zero count 18 rfl, shiftLeft_and_fieldMask subc,
    shiftLeft_and_eq_zero mthd 2 rfl, BitVec.or_zero, BitVec.zero_or, BitVec.zero_or]

theorem headerWord_mthd : (headerWord ni subc mthd count).extractLsb' 2 11 = mthd := by
  refine extractLsb'_of_and ?_ (by decide)
  rw [headerWord_and, shiftLeft_and_eq_zero _ 30 rfl, shiftLeft_and_eq_zero count 18 rfl,
    shiftLeft_and_eq_zero subc 13 rfl, shiftLeft_and_fieldMask mthd, BitVec.or_zero, BitVec.or_zero, BitVec.zero_or]

end

/-- A word whose fixed bits are a header's is the header word of its slices. -/
theorem headerWord_of_slices {w : Word} (h : w &&& 0xA0030003 = 0) :
    headerWord (w.getLsbD 30) (w.extractLsb' 13 3) (w.extractLsb' 2 11) (w.extractLsb' 18 11) = w := by
  have hni : BitVec.ofBool (w.getLsbD 30) = w.extractLsb' 30 1 := by
    ext i hi
    obtain rfl := Nat.lt_one_iff.1 hi
    simp
  rw [headerWord_fields, hni, extractLsb'_shiftLeft, extractLsb'_shiftLeft, extractLsb'_shiftLeft,
    extractLsb'_shiftLeft, ← BitVec.and_or_distrib_left, ← BitVec.and_or_distrib_left, ← BitVec.and_or_distrib_left]
  exact BitVec.or_zero.symm.trans (and_or_of_covers h (by decide))

/-! ## Control words, from the word to the instruction and back -/

/-- In control mode a word decodes to a well-formed instruction whose word it is (R121, R127). -/
theorem decodeControl_sound (w : Word) : (decodeControl w).wf = true ∧ encodeWord (decodeControl w) = w := by
  cases controlRow_exists w with
  | jmpl h =>
    rw [decodeControl_jmpl h]
    refine ⟨(Word.fits_iff _ _ _).2 ?_, and_or_of_covers h (by decide)⟩
    rw [BitVec.and_assoc]
    exact and_within (c := 0x00000003) h
  | jmp h =>
    rw [decodeControl_jmp h]
    refine ⟨(Word.fits_iff _ _ _).2 ?_, and_or_of_covers h (by decide)⟩
    rw [BitVec.and_assoc]
    exact BitVec.and_zero
  | call h =>
    rw [decodeControl_call h]
    refine ⟨(Word.fits_iff _ _ _).2 ?_, and_or_of_covers h (by decide)⟩
    rw [BitVec.and_assoc]
    exact BitVec.and_zero
  | ret h =>
    rw [h, decodeControl_ret]
    exact ⟨rfl, rfl⟩
  | header h =>
    have hw := headerWord_of_slices h
    rw [decodeControl_header h]
    cases hni : w.getLsbD 30 <;> rw [hni] at hw
    · exact ⟨rfl, hw⟩
    · exact ⟨rfl, hw⟩
  | badLow11 h =>
    rw [decodeControl_badLow11 h]
    exact ⟨(Word.fits_iff _ _ _).2 h, rfl⟩
  | badB31 h =>
    rw [decodeControl_badB31 h]
    exact ⟨(Word.fits_iff _ _ _).2 h, rfl⟩
  | badB3029 h =>
    rw [decodeControl_badB3029 h]
    exact ⟨(Word.fits_iff _ _ _).2 h, rfl⟩
  | badB16 h =>
    rw [decodeControl_badB16 h]
    exact ⟨(Word.fits_iff _ _ _).2 h, rfl⟩
  | badB17 h hret =>
    rw [decodeControl_badB17 h hret]
    exact ⟨Bool.and_eq_true_iff.2 ⟨(Word.fits_iff _ _ _).2 h, bne_iff_ne.2 hret⟩, rfl⟩

theorem decodeControl_encode_jmpl {t : Word} (h : (Instr.jmpl t).wf = true) :
    decodeControl (encodeWord (.jmpl t)) = .jmpl t := by
  obtain ⟨htest, htarget⟩ :=
    operand_or_pattern (c := 0x1FFFFFFF) (b := 0x20000000) ((Word.fits_iff _ _ _).1 h) rfl rfl (by decide)
  exact (decodeControl_jmpl htest).trans (congrArg Instr.jmpl htarget)

theorem decodeControl_encode_jmp {t : Word} (h : (Instr.jmp t).wf = true) :
    decodeControl (encodeWord (.jmp t)) = .jmp t := by
  obtain ⟨htest, htarget⟩ :=
    operand_or_pattern (c := 0xFFFFFFFC) (b := 0x00000001) ((Word.fits_iff _ _ _).1 h) rfl rfl (by decide)
  exact (decodeControl_jmp htest).trans (congrArg Instr.jmp htarget)

theorem decodeControl_encode_call {t : Word} (h : (Instr.call t).wf = true) :
    decodeControl (encodeWord (.call t)) = .call t := by
  obtain ⟨htest, htarget⟩ :=
    operand_or_pattern (c := 0xFFFFFFFC) (b := 0x00000002) ((Word.fits_iff _ _ _).1 h) rfl rfl (by decide)
  exact (decodeControl_call htest).trans (congrArg Instr.call htarget)

/-- A header word decodes to its fields (R126, R135). -/
theorem decodeControl_headerWord (ni : Bool) (subc : SubId) (mthd : Mthd) (count : BitVec 11) :
    decodeControl (headerWord ni subc mthd count) = if ni then .hdrNi subc mthd count else .hdr subc mthd count := by
  rw [decodeControl_header (headerWord_fixedBits ni subc mthd count), headerWord_ni, headerWord_subc, headerWord_mthd,
    headerWord_count]

end Sys2Proof
end

section
/-! Method rows (30_encoding.md R129, R131, R133): that a number selects the row it hits, from `rows_disjoint`, and that
what a row builds is well-formed and keeps the word. -/
namespace Sys2Proof

/-! ## The selection of a method row -/

/-- A row is selected where its test is met (R133). -/
theorem MethodRow.hit_iff (r : MethodRow) (m : Mthd) : r.hit m = true ↔ m &&& r.mask = r.pat := by
  simp [MethodRow.hit, Mthd.fits]

/-- Two rows that one method number hits overlap. -/
theorem MethodRow.overlaps_of_hit {r q : MethodRow} {m : Mthd} (hr : r.hit m = true) (hq : q.hit m = true) :
    r.overlaps q = true := by
  rw [MethodRow.hit_iff] at hr hq
  rw [MethodRow.overlaps, beq_iff_eq, ← hr, ← hq]
  ext i hi
  cases hrm : r.mask[i] <;> cases hqm : q.mask[i] <;> simp [hrm, hqm]

/-- A row's pattern is the first method number it can stand for. -/
theorem MethodRow.pat_le_of_hit {r : MethodRow} {m : Mthd} (h : r.hit m = true) : r.pat.toNat ≤ m.toNat := by
  rw [← (r.hit_iff m).1 h, BitVec.toNat_and]
  exact Nat.and_le_left

/-- A row's pattern with every free bit set is the last method number it can stand for. -/
theorem MethodRow.le_of_hit {r : MethodRow} {m : Mthd} (h : r.hit m = true) :
    m.toNat ≤ (r.pat ||| ~~~r.mask).toNat := by
  have hor : r.pat ||| ~~~r.mask = m ||| ~~~r.mask := by
    rw [← (r.hit_iff m).1 h]
    ext i hi
    cases hm : r.mask[i] <;> simp [hm]
  rw [hor, BitVec.toNat_or]
  exact Nat.left_le_or

/-- In a table whose rows do not overlap, the row that a method number hits is the one found. -/
theorem find?_hit_of_pairwise {rows : List MethodRow} (hd : rows.Pairwise (fun r q => r.overlaps q = false))
    {r : MethodRow} (hr : r ∈ rows) {m : Mthd} (h : r.hit m = true) : rows.find? (·.hit m) = some r := by
  induction rows with
  | nil => exact absurd hr List.not_mem_nil
  | cons q rows ih =>
    obtain ⟨hq, hrows⟩ := List.pairwise_cons.1 hd
    rcases List.mem_cons.1 hr with rfl | hmem
    · exact List.find?_cons_of_pos h
    · have hqm : ¬ q.hit m = true := fun hqm =>
        Bool.false_ne_true ((hq r hmem).symm.trans (MethodRow.overlaps_of_hit hqm h))
      exact (List.find?_cons_of_neg (p := fun x : MethodRow => x.hit m) hqm).trans (ih hrows hmem)

/-- A method number that hits a row of a table selects it (R131, R133). -/
theorem selectRow_of_hit {rows : List MethodRow} (hd : rows.Pairwise (fun r q => r.overlaps q = false))
    {r : MethodRow} (hr : r ∈ rows) {m : Mthd} (h : r.hit m = true) (p : Word) :
    selectRow rows (m.setWidth 32) p = some (r.build m p) := by
  have hm : (m.setWidth 32).setWidth 11 = m := BitVec.setWidth_setWidth_of_le m (by decide)
  have hlt : (m.setWidth 32).toNat < 0x800 := by
    have := m.isLt
    simp only [BitVec.toNat_setWidth]
    omega
  rw [selectRow, if_pos hlt]
  simp only [hm, find?_hit_of_pairwise hd hr h, Option.map_some]

/-- The channel-global rows stand for numbers below `0x040` (R180). -/
theorem globalRows_below : ∀ r ∈ globalRows, (r.pat ||| ~~~r.mask).toNat < 0x040 := by decide

/-- The class rows stand for numbers from `0x040` on, and for none of the engine's own methods (R180, R189). -/
theorem classRows_apart (c : Cls) :
    ∀ r ∈ classRows c, 0x040 ≤ r.pat.toNat ∧ ∀ q ∈ graphicsRows, q.overlaps r = false := by
  cases c <;> decide

theorem classRows_disjoint (c : Cls) : (classRows c).Pairwise (fun r q => r.overlaps q = false) :=
  rows_disjoint _ (by cases c <;> simp [classRows])

/-- A channel-global row decodes the numbers it stands for, whatever the route (R180). -/
theorem decodeParam_globalRow {r : MethodRow} (hr : r ∈ globalRows) {m : Mthd} (h : r.hit m = true) (route : Route)
    (p : Word) : decodeParam route (m.setWidth 32) p = r.build m p := by
  have hlow : (m.setWidth 32).toNat < 0x040 := by
    have := MethodRow.le_of_hit h
    have := globalRows_below r hr
    simp only [BitVec.toNat_setWidth]
    omega
  have hd := rows_disjoint globalRows (List.mem_cons_self ..)
  unfold decodeParam
  rw [if_pos hlow, selectRow_of_hit hd hr h, Option.getD_some]

/-- A class row decodes the numbers it stands for, on the graphics engine under its class (R189, R191). -/
theorem decodeParam_classRow {c : Cls} {r : MethodRow} (hr : r ∈ classRows c) {m : Mthd} (h : r.hit m = true)
    (p : Word) : decodeParam (.graphics (some c)) (m.setWidth 32) p = r.build m p := by
  obtain ⟨hpat, hapart⟩ := classRows_apart c r hr
  have hhigh : ¬ (m.setWidth 32).toNat < 0x040 := by
    have := MethodRow.pat_le_of_hit h
    have := m.isLt
    simp only [BitVec.toNat_setWidth]
    omega
  have hm : (m.setWidth 32).setWidth 11 = m := BitVec.setWidth_setWidth_of_le m (by decide)
  have hgraphics : selectRow graphicsRows (m.setWidth 32) p = none := selectRow_none fun _ q hq => by
    rw [hm, Bool.eq_false_iff]
    exact fun hqm => Bool.false_ne_true ((hapart q hq).symm.trans (MethodRow.overlaps_of_hit hqm h))
  unfold decodeParam
  rw [if_neg hhigh]
  simp only [hgraphics, selectRow_of_hit (classRows_disjoint c) hr h, Option.getD_some]

/-! ## Method numbers with an index -/

theorem mthdIdx4_hit : ∀ i : BitVec 4, Mthd.fits 0x7F0 0x100 (mthdIdx4 0x100 i) = true := by decide

/-- The index is in the bits that the mask of R221's row leaves free. -/
theorem idx4_mthdIdx4 : ∀ i : BitVec 4, idx4 (mthdIdx4 0x100 i) = i := by decide

/-- The rectangle rows of the fill class: the index is between the bits that the mask tests. -/
theorem mthdIdx5_hit : ∀ base ∈ [(0x100 : Mthd), 0x101, 0x180, 0x181], ∀ i : BitVec 5,
    Mthd.fits 0x7C1 base (mthdIdx5 base i) = true ∧ idx5 (mthdIdx5 base i) = i := by decide

/-- A rectangle row of the fill class decodes its numbers, with the index (R253, R254, R258, R259). -/
theorem decodeParam_gdiRectRow {base : Mthd} {build : BitVec 5 → Word → Instr}
    (hr : ⟨0x7C1, base, fun m p => build (idx5 m) p⟩ ∈ gdiRows) (hb : base ∈ [(0x100 : Mthd), 0x101, 0x180, 0x181])
    (i : BitVec 5) (p : Word) :
    decodeParam (.graphics (some .gdi)) ((mthdIdx5 base i).setWidth 32) p = build i p := by
  obtain ⟨hhit, hidx⟩ := mthdIdx5_hit base hb i
  exact (decodeParam_classRow (c := .gdi) hr hhit p).trans (congrArg (build · p) hidx)

/-- R221's row decodes its numbers, with the index. -/
theorem decodeParam_pattIdx (i : BitVec 4) (p : Word) :
    decodeParam (.graphics (some .patt)) ((mthdIdx4 0x100 i).setWidth 32) p = .pattIdx i p :=
  (decodeParam_classRow (c := .patt) (r := ⟨0x7F0, 0x100, fun m p => .pattIdx (idx4 m) p⟩)
    (by simp [classRows, pattRows]) (mthdIdx4_hit i) p).trans (congrArg (Instr.pattIdx · p) (idx4_mthdIdx4 i))

/-! ## What the method rows build -/

/-- Under every number a row stands for it builds a well-formed instruction with the word as its parameter (R129). -/
def MethodRow.Sound (r : MethodRow) : Prop :=
  ∀ m p, r.hit m = true → (r.build m p).wf = true ∧ encodeWord (r.build m p) = p

/-- A row whose instruction is well-formed whatever the number. -/
theorem MethodRow.sound_of_wf {r : MethodRow} (h : ∀ m p, (r.build m p).wf = true ∧ encodeWord (r.build m p) = p) :
    r.Sound := fun m p _ => h m p

/-- Well-formedness of the rows of several numbers is their own test (R185). -/
theorem globalRows_sound : ∀ r ∈ globalRows, r.Sound := by
  simp [globalRows, oneMthd, MethodRow.Sound, MethodRow.hit, Instr.wf, encodeWord]

theorem graphicsRows_sound : ∀ r ∈ graphicsRows, r.Sound := by
  intro r hr
  fin_cases hr <;> exact MethodRow.sound_of_wf fun _ _ => ⟨rfl, rfl⟩

/-- Well-formedness of the data rows is their own test (R265). -/
theorem ifcRows_sound : ∀ r ∈ ifcRows, r.Sound := by
  simp [ifcRows, oneMthd, MethodRow.Sound, MethodRow.hit, Instr.wf, encodeWord]

theorem classRows_sound (c : Cls) : ∀ r ∈ classRows c, r.Sound := by
  intro r hr
  cases c
  case ifc => exact ifcRows_sound r hr
  all_goals fin_cases hr <;> exact MethodRow.sound_of_wf fun _ _ => ⟨rfl, rfl⟩

/-- What a table of sound rows selects is well-formed and keeps the word. -/
theorem selectRow_sound {rows : List MethodRow} (hs : ∀ r ∈ rows, r.Sound) {m p : Word} {i : Instr}
    (h : selectRow rows m p = some i) : i.wf = true ∧ encodeWord i = p := by
  obtain ⟨_, r, hr, hhit, rfl⟩ := selectRow_some h
  exact hs r hr _ p hhit

/-- Where a table selects no row the word is `DATA`'s. -/
theorem selectRow_getD_sound {rows : List MethodRow} (hs : ∀ r ∈ rows, r.Sound) (m p : Word) :
    ((selectRow rows m p).getD (.data p)).wf = true ∧ encodeWord ((selectRow rows m p).getD (.data p)) = p := by
  cases h : selectRow rows m p with
  | none => exact ⟨rfl, rfl⟩
  | some i => exact selectRow_sound hs h

/-- In parameter mode a word decodes to a well-formed instruction whose parameter it is (R129). -/
theorem decodeParam_sound (r : Route) (m p : Word) :
    (decodeParam r m p).wf = true ∧ encodeWord (decodeParam r m p) = p := by
  unfold decodeParam
  split
  · exact selectRow_getD_sound globalRows_sound m p
  · cases r with
    | software => exact ⟨rfl, rfl⟩
    | unknownEngine => exact ⟨rfl, rfl⟩
    | graphics cls =>
      cases h : selectRow graphicsRows m p with
      | some i => exact selectRow_sound graphicsRows_sound h
      | none =>
        cases cls with
        | none => exact ⟨rfl, rfl⟩
        | some c => exact selectRow_getD_sound (classRows_sound c) m p

end Sys2Proof
end

section
/-! Decoding and encoding put together (30_encoding.md R120 to R135): O1, O2 and O3. -/
namespace Sys2Proof

/-- A well-formed instruction is what its word decodes to in its parse slot. The last case is the rows of one method
number, selected by evaluation; every other row is selected by its test, which well-formedness or the index gives. -/
theorem decodeWord_encode {i : Instr} (h : i.wf = true) : decodeWord (encodeSlot i) (encodeWord i) = i := by
  cases i with
  | jmpl t => exact decodeControl_encode_jmpl h
  | jmp t => exact decodeControl_encode_jmp h
  | call t => exact decodeControl_encode_call h
  | ret => exact decodeControl_ret
  | hdr subc mthd count => exact decodeControl_headerWord false subc mthd count
  | hdrNi subc mthd count => exact decodeControl_headerWord true subc mthd count
  | badLow11 w => exact decodeControl_badLow11 ((Word.fits_iff _ _ _).1 h)
  | badB31 w => exact decodeControl_badB31 ((Word.fits_iff _ _ _).1 h)
  | badB3029 w => exact decodeControl_badB3029 ((Word.fits_iff _ _ _).1 h)
  | badB16 w => exact decodeControl_badB16 ((Word.fits_iff _ _ _).1 h)
  | badB17 w =>
    obtain ⟨htest, hret⟩ := Bool.and_eq_true_iff.1 h
    exact decodeControl_badB17 ((Word.fits_iff _ _ _).1 htest) (bne_iff_ne.1 hret)
  | globalUndef002 m p =>
    exact decodeParam_globalRow (r := ⟨0x7FE, 0x002, .globalUndef002⟩) (by simp [globalRows]) h .software p
  | globalUndef004 m p =>
    exact decodeParam_globalRow (r := ⟨0x7FC, 0x004, .globalUndef004⟩) (by simp [globalRows]) h .software p
  | globalUndef008 m p =>
    exact decodeParam_globalRow (r := ⟨0x7F8, 0x008, .globalUndef008⟩) (by simp [globalRows]) h .software p
  | globalUndef010 m p =>
    exact decodeParam_globalRow (r := ⟨0x7FC, 0x010, .globalUndef010⟩) (by simp [globalRows]) h .software p
  | globalUndef016 m p =>
    exact decodeParam_globalRow (r := ⟨0x7FE, 0x016, .globalUndef016⟩) (by simp [globalRows]) h .software p
  | globalUndef018 m p =>
    exact decodeParam_globalRow (r := ⟨0x7F8, 0x018, .globalUndef018⟩) (by simp [globalRows]) h .software p
  | globalUndef020 m p =>
    exact decodeParam_globalRow (r := ⟨0x7E0, 0x020, .globalUndef020⟩) (by simp [globalRows]) h .software p
  | ifcData100 m p =>
    exact decodeParam_classRow (c := .ifc) (r := ⟨0x700, 0x100, .ifcData100⟩) (by simp [classRows, ifcRows]) h p
  | ifcData200 m p =>
    exact decodeParam_classRow (c := .ifc) (r := ⟨0x600, 0x200, .ifcData200⟩) (by simp [classRows, ifcRows]) h p
  | ifcData400 m p =>
    exact decodeParam_classRow (c := .ifc) (r := ⟨0x400, 0x400, .ifcData400⟩) (by simp [classRows, ifcRows]) h p
  | pattIdx i p => exact decodeParam_pattIdx i p
  | gdiUnclippedPoint i p =>
    exact decodeParam_gdiRectRow (build := .gdiUnclippedPoint) (by simp [gdiRows]) (by simp) i p
  | gdiUnclippedSize i p =>
    exact decodeParam_gdiRectRow (build := .gdiUnclippedSize) (by simp [gdiRows]) (by simp) i p
  | gdiClippedPoint0 i p =>
    exact decodeParam_gdiRectRow (build := .gdiClippedPoint0) (by simp [gdiRows]) (by simp) i p
  | gdiClippedPoint1 i p =>
    exact decodeParam_gdiRectRow (build := .gdiClippedPoint1) (by simp [gdiRows]) (by simp) i p
  | _ => rfl

/-- Settles O1: the bytes of a word decode as the word, and the word decodes to its instruction. -/
theorem decodeOfEncode : Obligations.DecodeOfEncode := by
  intro i rest h
  exact (decodeBytes_word (encodeSlot i) (encodeWord i) rest).trans
    (congrArg (fun j => Except.ok (j, rest)) (decodeWord_encode h))

/-- Settles O2, one case per parse slot. -/
theorem everyWordIsOneRow : Obligations.EveryWordIsOneRow := by
  intro slot w
  cases slot with
  | control => exact decodeControl_sound w
  | param r m => exact decodeParam_sound r m w
  | noRow => exact ⟨rfl, rfl⟩

/-- Settles O3: each sample is the encoding of the instruction it is said to be. -/
theorem sampleWords : Obligations.SampleWords :=
  ⟨decodeWord_encode (i := .jmpl 0x100) rfl, decodeWord_encode (i := .jmp 0x1000) rfl,
    decodeWord_encode (i := .call 0x200) rfl, decodeWord_encode (i := .ret) rfl,
    decodeWord_encode (i := .hdr 2 0x80 2) rfl, decodeWord_encode (i := .hdrNi 2 0x80 2) rfl,
    decodeWord_encode (i := .badLow11 0x00000003) rfl, decodeWord_encode (i := .badB31 0x80000000) rfl,
    decodeWord_encode (i := .badB3029 0x60000000) rfl, decodeWord_encode (i := .badB16 0x00030000) rfl,
    decodeWord_encode (i := .badB17 0x40020000) rfl, decodeWord_encode (i := .refCnt 7) rfl,
    decodeWord_encode (i := .pattIdx 3 0x04030201) rfl, decodeWord_encode (i := .gdiUnclippedSize 3 1) rfl⟩

end Sys2Proof
end

section
/-! Control words run (40_command_words.md R154 to R159): O9, O10, O11 and O12. -/
namespace Sys2Proof.Machine

open Sys2Proof

/-! ## Call and return, an equation per case -/

/-- A nested call is logged and ignored (R156). -/
theorem execCall_nested {s : State} (h : s.ch.subActive = true) (target : Word) :
    execCall target s = .next (logEvent (.ev5 s.cur (s.live.get - 4) (target ||| 2)) s) := by
  rw [execCall, if_pos h]

/-- A call saves the cursor, sets the flag and jumps (R156). -/
theorem execCall_outermost {s : State} (h : s.ch.subActive = false) (target : Word) :
    execCall target s
      = .next (setGet target (modCh (fun x => { x with subReturn := s.live.get, subActive := true }) s)) := by
  rw [execCall, if_neg (Bool.eq_false_iff.1 h)]

/-- A return restores the cursor and clears the flag (R157). -/
theorem execRet_matched {s : State} (h : s.ch.subActive = true) :
    execRet s = .next (modCh (fun x => { x with subActive := false }) (setGet s.ch.subReturn s)) := by
  rw [execRet, if_pos h]

/-- An unmatched return is logged and ignored (R157). -/
theorem execRet_unmatched {s : State} (h : s.ch.subActive = false) :
    execRet s = .next (logEvent (.ev6 s.cur (s.live.get - 4)) s) := by
  rw [execRet, if_neg (Bool.eq_false_iff.1 h)]

/-- Settles O9: the two jump patterns decode to the two rows, whose meaning is `setGet`. -/
theorem jumpsLoadTheCursor : Obligations.JumpsLoadTheCursor := by
  intro s
  refine ⟨fun w h => ?jmpl, fun w h => ?jmp, fun target => ⟨rfl, rfl⟩⟩
  case jmpl =>
    rw [decodeControl_jmpl h]
    rfl
  case jmp =>
    rw [decodeControl_jmp h]
    rfl

/-- Settles O10: the call pattern keeps the whole word, and a case per value of the flag. -/
theorem callAndReturn : Obligations.CallAndReturn := by
  intro s
  refine ⟨fun w h => ⟨decodeControl_call h, and_or_of_covers h (by decide)⟩,
    fun target => ⟨fun hactive => ?nested, fun hidle => ?outermost⟩, fun hidle => ?unmatched, fun hactive => ?matched⟩
  case nested => exact execCall_nested hactive target
  case outermost => exact execCall_outermost hidle target
  case unmatched => exact execRet_unmatched hidle
  case matched => exact execRet_matched hactive

/-- Settles O11: the pattern decodes to one of the two header rows, by bit 30, and both load the slices. -/
theorem headerLoadsTheParser : Obligations.HeaderLoadsTheParser := by
  intro s
  refine ⟨fun w h => ?_, fun subc mthd count => ⟨rfl, rfl⟩⟩
  rw [decodeControl_header h]
  cases w.getLsbD 30 with
  | false => rfl
  | true => rfl

/-- A control word outside the five patterns of R122 to R126 is in a row of `CW.BAD`, each of which logs `EV1` (R127,
R159). -/
theorem exec_decodeControl_malformed {w : Word} (hjmpl : w &&& 0xE0000003 ≠ 0x20000000) (hjmp : w &&& 0x00000003 ≠ 1)
    (hcall : w &&& 0x00000003 ≠ 2) (hret : w ≠ 0x00020000) (hheader : w &&& 0xA0030003 ≠ 0) (s : State) :
    exec (decodeControl w) s = .next (malformed w s) := by
  cases controlRow_exists w with
  | jmpl h => exact absurd h hjmpl
  | jmp h => exact absurd h hjmp
  | call h => exact absurd h hcall
  | ret h => exact absurd h hret
  | header h => exact absurd h hheader
  | badLow11 h => rw [decodeControl_badLow11 h]; rfl
  | badB31 h => rw [decodeControl_badB31 h]; rfl
  | badB3029 h => rw [decodeControl_badB3029 h]; rfl
  | badB16 h => rw [decodeControl_badB16 h]; rfl
  | badB17 h => rw [decodeControl_badB17 h hret]; rfl

/-- Settles O12, by the rows that are left when the five patterns are excluded. -/
theorem malformedWordsAreLogged : Obligations.MalformedWordsAreLogged := by
  intro s w t
  exact ⟨fun hjmpl hjmp hcall hret hheader => exec_decodeControl_malformed hjmpl hjmp hcall hret hheader s,
    rfl, rfl, rfl, rfl, rfl⟩

end Sys2Proof.Machine
end

section
/-! Parameter words as one kind (40_command_words.md R160, R161, 41_method_dispatch.md R180, R189, R195): the row `DATA`
and the method rows, and a dispatch that fails: O6, O19 and O20. -/

namespace Sys2Proof

/-! ## What parameter mode decodes to -/

/-- What every row of a table builds is a parameter word. -/
def BuildParameters (rows : List MethodRow) : Prop := ∀ r ∈ rows, ∀ m p, (r.build m p).isParameter = true

theorem globalRows_buildParameters : BuildParameters globalRows := by
  intro r hr m p
  fin_cases hr <;> rfl

theorem graphicsRows_buildParameters : BuildParameters graphicsRows := by
  intro r hr m p
  fin_cases hr <;> rfl

theorem classRows_buildParameters (c : Cls) : BuildParameters (classRows c) := by
  intro r hr m p
  cases c <;> fin_cases hr <;> rfl

/-- What such a table selects is a parameter word. -/
theorem BuildParameters.of_selectRow {rows : List MethodRow} (hrows : BuildParameters rows) {m p : Word} {i : Instr}
    (h : selectRow rows m p = some i) : i.isParameter = true := by
  obtain ⟨-, r, hr, -, rfl⟩ := selectRow_some h
  exact hrows r hr _ p

/-- So is `DATA`, where such a table selects no row. -/
theorem BuildParameters.of_selectRow_getD {rows : List MethodRow} (hrows : BuildParameters rows) (m p : Word) :
    ((selectRow rows m p).getD (.data p)).isParameter = true := by
  cases h : selectRow rows m p with
  | none => rfl
  | some i => exact hrows.of_selectRow h

/-- Parameter mode decodes to no control word (R120, R129). -/
theorem decodeParam_isParameter (r : Route) (m p : Word) : (decodeParam r m p).isParameter = true := by
  unfold decodeParam
  split
  · exact globalRows_buildParameters.of_selectRow_getD m p
  · cases r with
    | software => rfl
    | unknownEngine => rfl
    | graphics cls =>
      cases h : selectRow graphicsRows m p with
      | some i => exact graphicsRows_buildParameters.of_selectRow h
      | none =>
        cases cls with
        | none => rfl
        | some c => exact (classRows_buildParameters c).of_selectRow_getD m p

/-- A word that is no method row's is `DATA` with the word itself as its parameter (R129). -/
theorem decodeParam_ne_data {r : Route} {m p : Word} (h : decodeParam r m p ≠ .data p) (q : Word) :
    decodeParam r m p ≠ .data q := by
  intro hq
  obtain rfl : q = p := by
    have hword := (decodeParam_sound r m p).2
    rw [hq] at hword
    exact hword
  exact h hq

end Sys2Proof

namespace Sys2Proof.Machine

open Sys2Proof

/-! ## The row `DATA` -/

/-- The dispatch of a number that has a row of the table runs that row's effects (R180). -/
theorem doDispatch_of_rowNumber {s : State} {m : Word} (h : s.rowNumber = some m) (p : Word) :
    doDispatch p s = doRow (decodeParam s.route m p) p s := by
  rw [doDispatch, h]

/-- A parameter word needs its effects at one state only, the one with the oracle's answer taken. -/
theorem paramWord_congr {s : State} {p : Word} {e f : State → State}
    (h : e { s with failIn := s.failIn.tail } = f { s with failIn := s.failIn.tail }) :
    paramWord p e s = paramWord p f s := by
  simp only [paramWord, h]

/-- Settles O6: the selected row is not `DATA`, so its meaning is the parser's bookkeeping around its effects, which are
those of the dispatch; route and method number do not depend on the oracle. -/
theorem dataRunsTheSelectedRow : Obligations.DataRunsTheSelectedRow := by
  intro p s m hrow hmethod
  have hdispatch : doDispatch p { s with failIn := s.failIn.tail }
      = doRow (decodeParam s.route m p) p { s with failIn := s.failIn.tail } :=
    doDispatch_of_rowNumber (s := { s with failIn := s.failIn.tail }) hrow p
  calc exec (.data p) s
    _ = .next (paramWord p (doDispatch p) s) := rfl
    _ = .next (paramWord p (doRow (decodeParam s.route m p) p) s) := congrArg _ (paramWord_congr hdispatch)
    _ = .next (paramWord (encodeWord (decodeParam s.route m p)) (doRow (decodeParam s.route m p) p) s) := by
      rw [(decodeParam_sound s.route m p).2]
    _ = exec (decodeParam s.route m p) s :=
      (exec_row _ (decodeParam_isParameter s.route m p) (decodeParam_ne_data hmethod) p s).symm

/-! ## Dispatch failure -/

/-- A dispatch failure leaves `EV8`, the cursor back on the word and the drain left (R160, R161). -/
theorem dispatchFailed_eq_failed (p : Word) (s : State) : dispatchFailed p s = failed p s := rfl

/-- Settles O19: the failure happens in the state in which only the oracle's answer is taken. -/
theorem dispatchFailsBefore : Obligations.DispatchFailsBefore := by
  intro i s hi hbefore
  obtain ⟨e, -, hexec⟩ := exec_parameter i hi
  rw [hexec, paramWord_before hbefore, dispatchFailed_eq_failed]
  rfl

/-- Settles O20: the effects are one function of the state with the oracle's answer taken, which is the same state for
both answers. -/
theorem dispatchFailsAfter : Obligations.DispatchFailsAfter := by
  intro i s r hi
  obtain ⟨e, -, hexec⟩ := exec_parameter i hi
  refine ⟨e { s with failIn := r }, ?undisturbed, ?failing⟩
  case undisturbed => rw [hexec, paramWord_no rfl]; rfl
  case failing => rw [hexec, paramWord_after rfl, dispatchFailed_eq_failed]; rfl

end Sys2Proof.Machine
end

section
/-! The drain loop (40_command_words.md R150 to R152, 20_memory.md R87): the word at the cursor, and what becomes of the
tasks: O4 and O59. -/
namespace Sys2Proof.Machine

open Sys2Proof

/-! ## The word at the cursor -/

/-- Four bytes read as a little-endian number are the word made of them (R71). -/
theorem readLE_four (m : Memory) (a : Nat) :
    BitVec.ofNat 32 (readLE m a 4)
      = wordOfBytes (getByte m a) (getByte m (a + 1)) (getByte m (a + 2)) (getByte m (a + 3)) := by
  apply BitVec.eq_of_toNat_eq
  have hlt := readLE_lt m a 4
  rw [BitVec.toNat_ofNat, Nat.mod_eq_of_lt hlt, wordOfBytes_toNat]
  simp only [readLE, Nat.add_assoc, Nat.mul_zero, Nat.add_zero, Nat.reduceAdd]

/-- Four bytes decode as the word made of them, and to nothing else (R120). -/
theorem decodeBytes_four {slot : Slot} {b0 b1 b2 b3 : Byte} {i : Instr}
    (h : decodeBytes slot [b0, b1, b2, b3] = .ok (i, [])) : decodeWord slot (wordOfBytes b0 b1 b2 b3) = i := by
  simpa [decodeBytes] using h

/-- A read of four bytes of system memory is the environment's word (R76). -/
theorem sysRead_four (a : Word) (s : State) :
    sysRead a 4 s = (Config.sysReadValue s.sysReads,
      { s with sysReads := s.sysReads + 1, sysBus := s.sysBus ++ [.read a 4] }) := by
  have hmask : byteMask 4 = BitVec.allOnes 32 := rfl
  rw [sysRead, hmask, BitVec.and_allOnes]

/-- The fetch from device memory (R87, R152). -/
theorem fetchWord_dev {s : State} (h : (dmaXlate s (pushbuffer s) s.live.get).1 = .dev) :
    fetchWord s = (devRead s (dmaXlate s (pushbuffer s) s.live.get).2 4, advanceGet s) := by
  rw [fetchWord, dmaRead_dev_target h]

/-- The fetch from system memory (R87, R152). -/
theorem fetchWord_sys {s : State} (h : (dmaXlate s (pushbuffer s) s.live.get).1 = .sys) :
    fetchWord s = (Config.sysReadValue s.sysReads,
      advanceGet { s with sysReads := s.sysReads + 1,
                          sysBus := s.sysBus ++ [.read (dmaXlate s (pushbuffer s) s.live.get).2 4] }) := by
  simp only [fetchWord, dmaRead, memRead, h, sysRead_four]

/-! ## A step inside a drain -/

/-- At `GET = PUT` the step leaves the drain (R151). -/
theorem step_drained {s : State} {ts : List Task} (htasks : s.tasks = .drain :: ts) (h : s.live.get = s.live.put) :
    step s = .next (endDrain s) := by
  have hd : drained s = true := beq_iff_eq.2 h
  simp only [step, htasks, drainStep, hd, if_true]

/-- Before it the step runs the word at the cursor (R151, R152). -/
theorem step_fetched {s : State} {ts : List Task} (htasks : s.tasks = .drain :: ts) (h : s.live.get ≠ s.live.put) :
    step s = exec (decodeWord s.slot (fetchWord s).1) (fetchWord s).2 := by
  have hd : drained s = false := beq_eq_false_iff_ne.2 h
  simp [step, htasks, drainStep, hd]

/-- Leaving the drain takes it off the tasks and changes nothing else (R151). -/
theorem endDrain_of_drain {s : State} {ts : List Task} (htasks : s.tasks = .drain :: ts) :
    endDrain s = { s with tasks := ts } := by
  simp only [endDrain, htasks]

/-- Settles O4: the fetch, by the memory the cursor's address lies in. -/
theorem stepRunsTheDecodedWord : Obligations.StepRunsTheDecodedWord := by
  intro s ts htasks
  refine ⟨fun hdone => ?done, fun hmore => ?more⟩
  case done => rw [step_drained htasks hdone, endDrain_of_drain htasks]
  case more =>
    intro x s'
    have hstep := step_fetched htasks hmore
    refine ⟨fun i hdev hin hdecode => ?inside, fun hdev hout => ?outside, fun hsys => ?system⟩
    case inside =>
      have hword : decodeWord s.slot (devRead s x.2 4) = i := by
        rw [devRead_eq hin, readLE_four, decodeBytes_four hdecode]
      rw [hstep, fetchWord_dev hdev]
      exact congrArg (exec · s') hword
    case outside =>
      have hword : devRead s x.2 4 = 0 := devRead_out hout
      rw [hstep, fetchWord_dev hdev]
      exact congrArg (fun w => exec (decodeWord s.slot w) s') hword
    case system =>
      rw [hstep, fetchWord_sys hsys]
      rfl

/-! ## What becomes of the tasks -/

/-- Leaving the drain loop takes a drain off the tasks, or nothing. -/
theorem endDrain_tasks (s : State) : (endDrain s).tasks = s.tasks ∨ s.tasks = .drain :: (endDrain s).tasks := by
  unfold endDrain
  cases s.tasks with
  | nil => exact .inl rfl
  | cons task ts =>
    cases task with
    | drain => exact .inr rfl
    | word a v m => exact .inl rfl
    | tick c => exact .inl rfl

/-- An instruction queues no task; at most it leaves the drain, when its dispatch fails (R151, R161). -/
theorem exec_tasks {i : Instr} {s t : State} (hx : exec i s = .next t) :
    t.tasks = s.tasks ∨ s.tasks = .drain :: t.tasks := by
  cases hi : i.isParameter with
  | false =>
    obtain ⟨u, hu, -, htasks⟩ := exec_control_leavesRest hi s
    rw [hu] at hx
    cases hx
    exact .inl htasks
  | true =>
    obtain ⟨e, he, hcases⟩ := exec_parameter_cases i hi s
    have heffects : e.tasks = s.tasks := he.untouched.tasks
    obtain ⟨hn, -⟩ | ⟨hn, -⟩ := hcases
    · rw [hn] at hx
      cases hx
      exact .inl heffects
    · rw [hn] at hx
      cases hx
      rw [← heffects]
      exact endDrain_tasks _

theorem regWrite_tasks (r : Reg) (v m : Word) (s : State) : (regWrite r v m s).tasks = s.tasks := by
  unfold regWrite
  rw [regSet_frame]
  split <;> rfl

/-- Only the put location of the current channel starts a drain (R335). -/
theorem putWrite_tasks (c : ChanId) (v m : Word) (s : State) :
    (putWrite c v m s).tasks = if c = s.cur then .drain :: s.tasks else s.tasks := by
  unfold putWrite
  split
  · rfl
  · exact devWrite_tasks _ _ _ _

/-- One word operation of a host write queues at most a drain. -/
theorem writeWord_tasks (a : Nat) (v m : Word) (s : State) :
    (writeWord a v m s).tasks = s.tasks ∨ (writeWord a v m s).tasks = .drain :: s.tasks := by
  unfold writeWord
  split
  · exact .inl (regWrite_tasks _ v m s)
  · exact .inl (effects_objectWrite _ v m s).untouched.tasks
  · rw [putWrite_tasks]
    split
    · exact .inr rfl
    · exact .inl rfl
  · exact .inl rfl
  · exact .inl rfl
  · exact .inl rfl

/-- A round of the tick queues its next round, with a drain before it or not; the last round queues nothing (R343). -/
theorem tickRound_tasks (c : Nat) (ts : List Task) (s : State) :
    (tickRound c ts s).tasks = .drain :: .tick (c + 1) :: ts ∨ (tickRound c ts s).tasks = .tick (c + 1) :: ts
      ∨ (tickRound c ts s).tasks = ts := by
  unfold tickRound
  split
  · simp only
    split
    · exact .inl rfl
    · exact .inr (.inl rfl)
  · exact .inr (.inr rfl)

/-- No input starts a drain by itself: a host write queues word operations, a tick its first round (R322, R343). -/
theorem takeInput_no_drain {s : State} (h : .drain ∉ s.tasks) (i : Input) : .drain ∉ (takeInput i s).tasks := by
  cases i with
  | write a size data =>
    show .drain ∉ writeOps a.toNat (size.val + 1) data ++ s.tasks
    simpa [writeOps] using h
  | tick =>
    show .drain ∉ (startTick s).tasks
    unfold startTick
    split
    · simpa using h
    · exact h
  | extRaise x bits =>
    show .drain ∉ (extRaise x bits s).tasks
    unfold extRaise
    rw [regSet_frame]
    exact h
  | pendTake =>
    show .drain ∉ (pendTake s).tasks
    unfold pendTake
    split <;> exact h
  | read a size => exact h
  | reset => exact h
  | snapshot => exact h
  | restore b => exact h

theorem idleStep_no_drain {s : State} (h : .drain ∉ s.tasks) : .drain ∉ (idleStep s).tasks := by
  unfold idleStep
  split
  case h_1 => exact h
  case h_2 i is _ => exact takeInput_no_drain (s := { s with inputs := is }) h i

/-! ## One drain at a time -/

/-- No drain anywhere is none behind another task. -/
theorem drainInv_of_not_mem {s : State} (h : .drain ∉ s.tasks) : DrainInv s := fun hm => h (List.mem_of_mem_tail hm)

/-- What follows the task in progress holds no drain. -/
theorem DrainInv.rest {s : State} (h : DrainInv s) {task : Task} {ts : List Task} (htasks : s.tasks = task :: ts) :
    .drain ∉ ts := by
  rw [DrainInv, htasks] at h
  exact h

/-- A drain may be put before tasks that hold none. -/
theorem drainInv_of_drain_cons {s : State} {ts : List Task} (htasks : s.tasks = .drain :: ts) (h : .drain ∉ ts) :
    DrainInv s := by
  rw [DrainInv, htasks]
  exact h

/-- An instruction run inside a drain keeps it first, or leaves it. -/
theorem exec_keeps_drainInv {i : Instr} {s t : State} (h : DrainInv s) (hx : exec i s = .next t) : DrainInv t := by
  obtain hsame | hleft := exec_tasks hx
  · rw [DrainInv, hsame]
    exact h
  · exact drainInv_of_not_mem (h.rest hleft)

theorem fetchWord_tasks (s : State) : (fetchWord s).2.tasks = s.tasks := by rw [fetchWord_frame]

/-- Settles O59, along the cases of a step: whatever task is in progress, the tasks behind it hold no drain, so a drain
that the step starts is the first. -/
theorem stepKeepsDrainInv : Obligations.StepKeepsDrainInv := by
  intro s t h hstep
  obtain ⟨ts, htasks, -, rfl⟩ | ⟨-, i, -, -, -, hx⟩ | ⟨a, v, m, ts, htasks, rfl⟩ | ⟨c, ts, htasks, rfl⟩
      | ⟨htasks, rfl⟩ := step_cases hstep
  · rw [endDrain_of_drain htasks]
    exact drainInv_of_not_mem (h.rest htasks)
  · have hfetch : DrainInv (fetchWord s).2 := by
      rw [DrainInv, fetchWord_tasks]
      exact h
    exact exec_keeps_drainInv hfetch hx
  · have hrest := h.rest htasks
    obtain hsame | hdrain := writeWord_tasks a v m { s with tasks := ts }
    · exact drainInv_of_not_mem (by rwa [hsame])
    · exact drainInv_of_drain_cons hdrain hrest
  · have hrest := h.rest htasks
    have hnext : .drain ∉ Task.tick (c + 1) :: ts := by simpa using hrest
    obtain hdrain | hround | hlast := tickRound_tasks c ts s
    · exact drainInv_of_drain_cons hdrain hnext
    · exact drainInv_of_not_mem (by rwa [hround])
    · exact drainInv_of_not_mem (by rwa [hlast])
  · have hnone : .drain ∉ s.tasks := htasks ▸ List.not_mem_nil
    exact drainInv_of_not_mem (idleStep_no_drain hnone)

end Sys2Proof.Machine
end

section
/-! Channel-global methods, and the methods that store their re-resolved parameter (41_method_dispatch.md R184 to R189,
42_state_classes.md R224, R225): O13, O14 and O27. -/
namespace Sys2Proof

/-- The handle range is the configured one (R6, R186). -/
theorem Mthds.takesHandle_iff (n : Mthds) (m : Word) :
    n.takesHandle m = true ↔ n.handleFirst.toNat ≤ m.toNat ∧ m.toNat ≤ n.handleLast.toNat := decide_eq_true_iff

/-! ## Channel-global numbers that are no method's -/

/-- Below `0x040` the table has a row for every number (R180). -/
theorem exists_globalRow_hit {m : Mthd} (h : m.toNat < 0x040) : ∃ r ∈ globalRows, r.hit m = true := by
  have hall : ∀ k : Fin 0x040, ∃ r ∈ globalRows, r.hit (BitVec.ofNat 11 k.val) = true := by decide
  have hm : BitVec.ofNat 11 m.toNat = m := BitVec.ofNat_toNat .. |>.trans (BitVec.setWidth_eq m)
  have hrow := hall ⟨m.toNat, h⟩
  rwa [hm] at hrow

/-- No channel-global row is `DATA`. -/
theorem globalRow_ne_data {r : MethodRow} (hr : r ∈ globalRows) (m : Mthd) (p q : Word) : r.build m p ≠ .data q := by
  fin_cases hr <;> exact Instr.noConfusion

/-- A number below `0x040` is decoded by a channel-global row that it hits, whatever the route (R180). -/
theorem decodeParam_global {m : Word} (h : m.toNat < 0x040) (route : Route) (p : Word) :
    ∃ r ∈ globalRows, r.hit (m.setWidth 11) = true ∧ decodeParam route m p = r.build (m.setWidth 11) p := by
  have hm : (m.setWidth 11).setWidth 32 = m := by
    apply BitVec.eq_of_toNat_eq
    simp only [BitVec.toNat_setWidth]
    omega
  have hlow : (m.setWidth 11).toNat < 0x040 := by
    simp only [BitVec.toNat_setWidth]
    omega
  obtain ⟨r, hr, hhit⟩ := exists_globalRow_hit hlow
  have hdecode := decodeParam_globalRow hr hhit route p
  rw [hm] at hdecode
  exact ⟨r, hr, hhit, hdecode⟩

end Sys2Proof

namespace Sys2Proof.Machine

open Sys2Proof

/-- A channel-global method that is not defined leaves `EV10` (R185). -/
theorem paramWord_globalUndef {s : State} (h : s.failNext = .no) (m p : Word) :
    paramWord p (doGlobalUndef m p) s = afterParam id { s with events := s.events ++ [.ev10 s.cur m p] } :=
  paramWord_state h p (g := fun s => { s with events := s.events ++ [.ev10 s.cur m p] }) rfl rfl

/-- REF_CNT sets the reference count (R184). -/
theorem paramWord_refCnt {s : State} (h : s.failNext = .no) (p : Word) :
    paramWord p (doRefCnt p) s = afterParam id { s with live := { s.live with ref := p } } :=
  paramWord_state h p (g := fun s => { s with live := { s.live with ref := p } }) rfl rfl

/-- Of the channel-global rows every one but BIND's and REF_CNT's has the meaning of a method that is not defined. -/
theorem exec_globalRow {r : MethodRow} (hr : r ∈ globalRows) {m : Mthd} (hhit : r.hit m = true) (hbind : m ≠ 0)
    (href : m ≠ 0x014) (p : Word) (s : State) :
    exec (r.build m p) s = .next (paramWord p (doGlobalUndef (m.setWidth 32) p) s) := by
  have hone : ∀ k build, r = oneMthd k build → m = k := by
    rintro k build rfl
    have hmask : m &&& 0x7FF = m := BitVec.and_allOnes
    rw [MethodRow.hit_iff] at hhit
    exact hmask.symm.trans hhit
  simp only [globalRows, List.mem_cons, List.not_mem_nil, or_false] at hr
  obtain hr | hr | hr | rfl | rfl | rfl | rfl | hr | rfl | rfl | rfl := hr
  · exact absurd (hone _ _ hr) hbind
  · exact absurd (hone _ _ hr) href
  · rw [hone _ _ hr, hr]; rfl
  · rfl
  · rfl
  · rfl
  · rfl
  · rw [hone _ _ hr, hr]; rfl
  · rfl
  · rfl
  · rfl

/-- So every number of the table's channel-global range but BIND's and REF_CNT's is not defined, on any route. -/
theorem exec_decodeParam_globalUndef {m : Word} (hlow : m.toNat < 0x040) (hbind : m ≠ 0) (href : m ≠ 0x014)
    (route : Route) (p : Word) (s : State) :
    exec (decodeParam route m p) s = .next (paramWord p (doGlobalUndef m p) s) := by
  have hm : (m.setWidth 11).setWidth 32 = m := by
    apply BitVec.eq_of_toNat_eq
    simp only [BitVec.toNat_setWidth]
    omega
  have hne : ∀ k : Mthd, m ≠ k.setWidth 32 → m.setWidth 11 ≠ k := by
    rintro k hk rfl
    exact hk hm.symm
  obtain ⟨r, hr, hhit, hdecode⟩ := decodeParam_global hlow route p
  rw [hdecode, exec_globalRow hr hhit (hne 0 hbind) (hne 0x014 href), hm]

/-- `DATA` under effects that its dispatch has. -/
theorem exec_data_of_dispatch {s : State} {p : Word} {e : State → State}
    (h : doDispatch p { s with failIn := s.failIn.tail } = e { s with failIn := s.failIn.tail }) :
    exec (.data p) s = .next (paramWord p e s) :=
  congrArg Host.Outcome.next (paramWord_congr h)

/-- `DATA` under REF_CNT's number is REF_CNT (R184). -/
theorem exec_data_refCnt {s : State} (h0 : s.ch.mthd ≠ 0) (h : s.ch.mthd = s.cfg.mthds.refCnt.setWidth 32) (p : Word) :
    exec (.data p) s = exec (.refCnt p) s :=
  dataRunsTheSelectedRow p s 0x014 (Mthds.rowNumber_refCnt h0 h) Instr.noConfusion

/-- `DATA` under any other channel-global number is a method that is not defined (R185), whether the table lists the
number or not. -/
theorem exec_data_globalUndef {s : State} (h0 : s.ch.mthd ≠ 0) (h : s.ch.mthd ≠ s.cfg.mthds.refCnt.setWidth 32)
    (hg : s.ch.mthd.toNat ≤ s.cfg.mthds.globalLast.toNat) (p : Word) :
    exec (.data p) s = .next (paramWord p (doGlobalUndef s.ch.mthd p) s) := by
  have hrow := Mthds.rowNumber_global (r := s.route) h0 h hg
  by_cases hfree : s.ch.mthd = 0x014 ∨ 0x040 ≤ s.ch.mthd.toNat
  · rw [if_pos hfree] at hrow
    have hglobal : s.cfg.mthds.isGlobal s.ch.mthd = true := decide_eq_true hg
    refine exec_data_of_dispatch ?_
    calc doDispatch p { s with failIn := s.failIn.tail }
      _ = doNoRow p { s with failIn := s.failIn.tail } := by
        rw [doDispatch, show State.rowNumber { s with failIn := s.failIn.tail } = none from hrow]
      _ = doGlobalUndef s.ch.mthd p { s with failIn := s.failIn.tail } := if_pos hglobal
  · rw [if_neg hfree] at hrow
    obtain ⟨href, hlow⟩ := not_or.1 hfree
    have hlow : s.ch.mthd.toNat < 0x040 := Nat.lt_of_not_le hlow
    obtain ⟨r, hr, -, hdecode⟩ := decodeParam_global hlow s.route p
    have hdata : decodeParam s.route s.ch.mthd p ≠ .data p := hdecode ▸ globalRow_ne_data hr _ p p
    rw [dataRunsTheSelectedRow p s s.ch.mthd hrow hdata, exec_decodeParam_globalUndef hlow h0 href]

/-- Settles O13. -/
theorem globalMethods : Obligations.GlobalMethods := by
  intro s p hno n undef
  have hundef : ∀ m, Host.Outcome.next (paramWord p (doGlobalUndef m p) s) = undef m :=
    fun m => congrArg Host.Outcome.next (paramWord_globalUndef hno m p)
  refine ⟨congrArg Host.Outcome.next (paramWord_refCnt hno p), hundef _, hundef _,
    fun m => ⟨hundef _, hundef _, hundef _, hundef _, hundef _, hundef _, hundef _⟩,
    fun r m h1 hlow => ⟨fun href => ?refCnt, fun href => ?undefined⟩, fun h0 href => exec_data_refCnt h0 href p,
    fun h0 href hg => (exec_data_globalUndef h0 href hg p).trans (hundef _), fun hdef => ?default⟩
  case refCnt => rw [href]; rfl
  case undefined =>
    have h0 : m ≠ 0 := by
      rintro rfl
      simp at h1
    exact (exec_decodeParam_globalUndef hlow h0 href r p s).trans (hundef m)
  case default => rw [hdef]; exact ⟨rfl, rfl⟩

/-! ## Re-resolution, inside and outside the handle range -/

section
variable {s : State} {m : Word}

/-- Inside the handle range the handler gets what the handle becomes (R186). -/
theorem paramValue_handle (h : s.cfg.mthds.takesHandle m = true) (p : Word) : paramValue s m p = handleValue s p :=
  if_pos h

theorem resolved_handle (h : s.cfg.mthds.takesHandle m = true) (p : Word) :
    resolved s m p = { s with events := s.events ++ handleEvents s p } := by
  rw [resolved, paramEvents, if_pos h]

/-- Outside it the handler gets the parameter as it is. -/
theorem paramValue_plain (h : s.cfg.mthds.takesHandle m = false) (p : Word) : paramValue s m p = p :=
  if_neg (Bool.eq_false_iff.1 h)

theorem resolved_plain (h : s.cfg.mthds.takesHandle m = false) (p : Word) : resolved s m p = s := by
  rw [resolved, paramEvents, if_neg (Bool.eq_false_iff.1 h), List.append_nil]

end

/-- A handle that is found becomes its object address, and nothing is logged (R94, R186). -/
theorem handle_found {s : State} {p : Word} {r : Word × Word} (h : hashFind s p s.cur = some r) :
    handleValue s p = r.1 ∧ handleEvents s p = [] := by
  rw [handleValue, handleEvents, h]
  exact ⟨rfl, rfl⟩

/-- A handle that is not found stays itself after `EV2`. -/
theorem handle_not_found {s : State} {p : Word} (h : hashFind s p s.cur = none) :
    handleValue s p = p ∧ handleEvents s p = [.ev2 p s.cur] := by
  rw [handleValue, handleEvents, h]
  exact ⟨rfl, rfl⟩

/-! ## Methods that store the re-resolved parameter -/

/-- Effects that re-resolve the parameter and store it in the current record. -/
theorem paramWord_resolve {s : State} (h : s.failNext = .no) {m p : Word} {e : State → State}
    {f : Word → Channel → Channel} (hf : ∀ q, KeepsCounters (f q))
    (he : e { s with failIn := s.failIn.tail }
      = modCh (f (resolve m p { s with failIn := s.failIn.tail }).1) (resolve m p { s with failIn := s.failIn.tail }).2) :
    paramWord p e s = afterParam (f (paramValue s m p)) (resolved s m p) := by
  refine paramWord_record h p (hf _) (g := fun s => resolved s m p) ?_ rfl
  rw [he, resolve_eq, paramValue_failIn, resolved_failIn]

/-- NOTIFY arms with its re-resolved parameter (R187). -/
theorem exec_notify {s : State} (h : s.failNext = .no) (p : Word) :
    exec (.notify p) s = .next (afterParam
      (fun x => { x with notifyArmed := true, notifyType := paramValue s (s.cfg.mthds.notify.setWidth 32) p })
      (resolved s (s.cfg.mthds.notify.setWidth 32) p)) :=
  congrArg Host.Outcome.next (paramWord_resolve h (f := fun q x => { x with notifyArmed := true, notifyType := q })
    (fun _ _ => ⟨rfl, rfl, rfl⟩) rfl)

/-- SET_NOTIFIER stores its re-resolved parameter in the current binding (R188). -/
theorem exec_setNotifier {s : State} (h : s.failNext = .no) (p : Word) :
    exec (.setNotifier p) s = .next (afterParam
      (fun x => x.setSub x.subc
        { x.subAt x.subc with notifier := paramValue s (s.cfg.mthds.setNotifier.setWidth 32) p })
      (resolved s (s.cfg.mthds.setNotifier.setWidth 32) p)) :=
  congrArg Host.Outcome.next (paramWord_resolve h
    (f := fun q x => x.setSub x.subc { x.subAt x.subc with notifier := q }) (fun _ _ => ⟨rfl, rfl, rfl⟩) rfl)

/-- Settles O14: with the default numbers NOTIFY's lies outside the handle range and SET_NOTIFIER's inside. -/
theorem notifyAndSetNotifier : Obligations.NotifyAndSetNotifier := by
  intro s p hno n a b arm link
  have hnotify := exec_notify hno p
  have hset := exec_setNotifier hno p
  refine ⟨hnotify, hset, fun hdef => ⟨?plain, ?handle⟩⟩
  case plain =>
    have hplain : s.cfg.mthds.takesHandle a = false := by
      rw [show a = n.notify.setWidth 32 from rfl, show s.cfg.mthds = n from rfl, hdef]
      decide
    rw [hnotify, paramValue_plain hplain, resolved_plain hplain]
  case handle =>
    have hhandle : s.cfg.mthds.takesHandle b = true := by
      rw [show b = n.setNotifier.setWidth 32 from rfl, show s.cfg.mthds = n from rfl, hdef]
      decide
    rw [hset, paramValue_handle hhandle, resolved_handle hhandle]

/-- A method that stores its re-resolved parameter, under a number that by default is a handle's. -/
theorem stores_handle {s : State} (h : Ready s) (number : Mthds → Mthd) (f : Word → Channel → Channel) {i : Instr}
    {p : Word} {e : State → State} (hi : exec i s = .next (paramWord p e s))
    (hd : e { s with failIn := s.failIn.tail }
      = classMethod ((number s.cfg.mthds).setWidth 32) p (fun q => modCh (f q)) { s with failIn := s.failIn.tail })
    (hf : ∀ q, KeepsCounters (f q)) (hn : ∀ q x, (f q x).notifyArmed = x.notifyArmed)
    (htakes : mthdsDefault.takesHandle ((number mthdsDefault).setWidth 32) = true) :
    exec i s = .next (afterParam (f (paramValue s ((number s.cfg.mthds).setWidth 32) p))
        (resolved s ((number s.cfg.mthds).setWidth 32) p))
      ∧ (s.cfg.mthds = mthdsDefault →
          exec i s = .next (afterParam (f (handleValue s p)) { s with events := s.events ++ handleEvents s p })) := by
  have hstore := hi.trans (congrArg Host.Outcome.next (paramWord_store h hd hf hn))
  refine ⟨hstore, fun hdef => ?_⟩
  have hhandle : s.cfg.mthds.takesHandle ((number s.cfg.mthds).setWidth 32) = true := by
    rw [hdef]
    exact htakes
  rw [hstore, paramValue_handle hhandle, resolved_handle hhandle]

/-- Settles O27: each of the six methods is a store under a number of the default handle range. -/
theorem handleMethodsResolve : Obligations.HandleMethodsResolve := by
  intro p s hready n stores
  refine ⟨⟨rfl, ?surfDmaSrc⟩, ⟨rfl, ?surfDmaDst⟩, ⟨rfl, ?m2mfDmaIn⟩, ⟨rfl, ?m2mfDmaOut⟩, ⟨rfl, ?d3dDmaColor⟩,
    ⟨rfl, ?d3dDmaZeta⟩, fun m => ⟨fun hfirst hlast => ?inside, fun hout => ?outside, fun hdef => ?default⟩⟩
  case surfDmaSrc =>
    exact stores_handle hready (·.surfDmaSrc) (fun q x => { x with surf := { x.surf with srcObj := q } }) rfl rfl
      (fun _ _ => ⟨rfl, rfl, rfl⟩) (fun _ _ => rfl) (by decide)
  case surfDmaDst =>
    exact stores_handle hready (·.surfDmaDst) (fun q x => { x with surf := { x.surf with dstObj := q } }) rfl rfl
      (fun _ _ => ⟨rfl, rfl, rfl⟩) (fun _ _ => rfl) (by decide)
  case m2mfDmaIn =>
    exact stores_handle hready (·.m2mfDmaIn) (fun q x => { x with m2mf := { x.m2mf with srcObj := q } }) rfl rfl
      (fun _ _ => ⟨rfl, rfl, rfl⟩) (fun _ _ => rfl) (by decide)
  case m2mfDmaOut =>
    exact stores_handle hready (·.m2mfDmaOut) (fun q x => { x with m2mf := { x.m2mf with dstObj := q } }) rfl rfl
      (fun _ _ => ⟨rfl, rfl, rfl⟩) (fun _ _ => rfl) (by decide)
  case d3dDmaColor =>
    exact stores_handle hready (·.d3dDmaColor) (fun q x => { x with d3d := { x.d3d with colorObj := q } }) rfl rfl
      (fun _ _ => ⟨rfl, rfl, rfl⟩) (fun _ _ => rfl) (by decide)
  case d3dDmaZeta =>
    exact stores_handle hready (·.d3dDmaZeta) (fun q x => { x with d3d := { x.d3d with zetaObj := q } }) rfl rfl
      (fun _ _ => ⟨rfl, rfl, rfl⟩) (fun _ _ => rfl) (by decide)
  case inside =>
    have hhandle := (Mthds.takesHandle_iff n m).2 ⟨hfirst, hlast⟩
    rw [paramValue_handle hhandle, resolved_handle hhandle]
    refine ⟨fun r hfound => ?_, fun hnone => ?_⟩
    · obtain ⟨hvalue, hevents⟩ := handle_found hfound
      rw [hvalue, hevents, List.append_nil]
      exact ⟨rfl, rfl⟩
    · obtain ⟨hvalue, hevents⟩ := handle_not_found hnone
      rw [hvalue, hevents]
      exact ⟨rfl, rfl⟩
  case outside =>
    have hplain : s.cfg.mthds.takesHandle m = false := Bool.eq_false_iff.2 fun hhandle => by
      have := (Mthds.takesHandle_iff n m).1 hhandle
      omega
    exact ⟨paramValue_plain hplain p, resolved_plain hplain p⟩
  case default => rw [hdef]; exact ⟨rfl, rfl⟩

end Sys2Proof.Machine
end

section
/-! The notification step (41_method_dispatch.md R192 to R194, 60_exceptions.md R373): its stores as a run of items, what
it commutes with, and the record it leaves: O22. -/
namespace Sys2Proof.Machine

open Sys2Proof

/-! ## Stores and the rest of the state -/

theorem devWrite_modCh (a : Word) (n : Nat) (v : Word) (f : Channel → Channel) (s : State) :
    devWrite a n v (modCh f s) = modCh f (devWrite a n v s) := by
  rw [devWrite, devWrite, modCh_cfg]
  split <;> rfl

/-- A store neither reads nor changes the channel records. -/
theorem dmaWrite_modCh (obj off : Word) (n : Nat) (v : Word) (f : Channel → Channel) (s : State) :
    dmaWrite obj off n v (modCh f s) = modCh f (dmaWrite obj off n v s) := by
  have hx : dmaXlate (modCh f s) obj off = dmaXlate s obj off := rfl
  rw [dmaWrite, dmaWrite, hx]
  cases (dmaXlate s obj off).1 with
  | sys => rfl
  | dev => exact devWrite_modCh _ _ _ _ _

theorem devWrite_withFailIn (a : Word) (n : Nat) (v : Word) (s : State) (l : List FailMode) :
    devWrite a n v { s with failIn := l } = { devWrite a n v s with failIn := l } := by
  rw [devWrite, devWrite, show State.cfg { s with failIn := l } = s.cfg from rfl]
  split <;> rfl

/-- A store neither reads nor changes the oracle's answers. -/
theorem dmaWrite_withFailIn (obj off : Word) (n : Nat) (v : Word) (s : State) (l : List FailMode) :
    dmaWrite obj off n v { s with failIn := l } = { dmaWrite obj off n v s with failIn := l } := by
  have hx : dmaXlate { s with failIn := l } obj off = dmaXlate s obj off := rfl
  rw [dmaWrite, dmaWrite, hx]
  cases (dmaXlate s obj off).1 with
  | sys => rfl
  | dev => exact devWrite_withFailIn _ _ _ _ _

/-! ## The completion record -/

/-- The four words of a completion record: the time, and two zero words (R192). -/
def recordStores (n : Word) (t : BitVec 64) : List (Item × Word) :=
  [(⟨n, 0, 4⟩, t.setWidth 32), (⟨n, 4, 4⟩, (t >>> 32).setWidth 32), (⟨n, 8, 4⟩, 0), (⟨n, 12, 4⟩, 0)]

/-- Where they go. -/
def recordItems (n : Word) : List Item := [⟨n, 0, 4⟩, ⟨n, 4, 4⟩, ⟨n, 8, 4⟩, ⟨n, 12, 4⟩]

theorem writeRecord_eq_storeAll (n : Word) (t : BitVec 64) (s : State) :
    writeRecord n t s = storeAll (recordStores n t) s := rfl

theorem writeRecord_modCh (n : Word) (t : BitVec 64) (f : Channel → Channel) (s : State) :
    writeRecord n t (modCh f s) = modCh f (writeRecord n t s) := by simp only [writeRecord, dmaWrite_modCh]

theorem writeRecord_failIn (n : Word) (t : BitVec 64) (s : State) (l : List FailMode) :
    writeRecord n t { s with failIn := l } = { writeRecord n t s with failIn := l } := by
  simp only [writeRecord, dmaWrite_withFailIn]

/-- A record is written to device memory, or requested from system memory, and changes nothing else. -/
theorem writeRecord_frame (n : Word) (t : BitVec 64) (s : State) :
    writeRecord n t s = { s with dev := (writeRecord n t s).dev, sysBus := (writeRecord n t s).sysBus } := by
  have hreads : (writeRecord n t s).sysReads = s.sysReads := by simp [writeRecord]
  have hframe := sameButStores_storeAll (recordStores n t) s
  rw [← writeRecord_eq_storeAll, SameButStores, hreads] at hframe
  exact hframe

/-! ## The step -/

/-- Set or clear the arm flag of the current channel (R42). -/
def withArmed (b : Bool) : State → State := modCh (fun x => { x with notifyArmed := b })

/-- The interrupt of a notification of a type, none for type 0 (R193). -/
def notifyInterrupt (type : Word) (s : State) : State := if type = 0 then s else raiseNotify s

/-- What the step does where a notification is armed: the time, the record, the flag, the interrupt (R192, R193). -/
theorem notifyComplete_armed {s : State} (h : s.ch.notifyArmed = true) :
    notifyComplete s
      = notifyInterrupt s.ch.notifyType (withArmed false (writeRecord s.sc.notifier (now s).1 (now s).2)) := by
  simp only [notifyComplete, h, if_true, notifyInterrupt, ne_eq, ite_not]
  rfl

theorem notifyInterrupt_modCh (type : Word) (f : Channel → Channel) (s : State) :
    notifyInterrupt type (modCh f s) = modCh f (notifyInterrupt type s) := by
  unfold notifyInterrupt
  split <;> rfl

theorem notifyInterrupt_failIn (type : Word) (s : State) (l : List FailMode) :
    notifyInterrupt type { s with failIn := l } = { notifyInterrupt type s with failIn := l } := by
  unfold notifyInterrupt
  split <;> rfl

/-- A change of the current record that leaves the notification and the bindings commutes with the step. -/
theorem notifyComplete_modCh {f : Channel → Channel} (hf : ∀ x, (f x).notifyArmed = x.notifyArmed
      ∧ (f x).notifyType = x.notifyType ∧ (f x).sub = x.sub ∧ (f x).subc = x.subc)
    (hc : ∀ x, f { x with notifyArmed := false } = { f x with notifyArmed := false }) (s : State) :
    notifyComplete (modCh f s) = modCh f (notifyComplete s) := by
  obtain ⟨harm, htype, hsub, hsubc⟩ := hf s.ch
  cases h : s.ch.notifyArmed with
  | false => rw [notifyComplete_unarmed h, notifyComplete_unarmed (by rw [ch_modCh, harm, h])]
  | true =>
    have hsc : (modCh f s).sc = s.sc := by
      simp only [State.sc, ch_modCh, Channel.subAt, hsub, hsubc]
    have hswap : ∀ u, withArmed false (modCh f u) = modCh f (withArmed false u) := fun u => by
      rw [withArmed, modCh_modCh, modCh_modCh]
      exact modCh_congr (hc _).symm
    have hnow : now (modCh f s) = ((now s).1, modCh f (now s).2) := rfl
    rw [notifyComplete_armed h, notifyComplete_armed (by rw [ch_modCh, harm, h]), ch_modCh, htype, hsc, hnow,
      writeRecord_modCh, hswap, notifyInterrupt_modCh]

/-- The step neither reads nor changes the oracle's answers. -/
theorem notifyComplete_failIn (s : State) (l : List FailMode) :
    notifyComplete { s with failIn := l } = { notifyComplete s with failIn := l } := by
  cases h : s.ch.notifyArmed with
  | false => rw [notifyComplete_unarmed h, notifyComplete_unarmed (s := { s with failIn := l }) h]
  | true =>
    have hnow : now { s with failIn := l } = ((now s).1, { (now s).2 with failIn := l }) := rfl
    have hflag : ∀ u : State, withArmed false { u with failIn := l } = { withArmed false u with failIn := l } :=
      fun _ => rfl
    rw [notifyComplete_armed h, notifyComplete_armed (s := { s with failIn := l }) h, hnow]
    show notifyInterrupt s.ch.notifyType
      (withArmed false (writeRecord s.sc.notifier (now s).1 { (now s).2 with failIn := l })) = _
    rw [writeRecord_failIn, hflag, notifyInterrupt_failIn]

@[simp] theorem notifyComplete_failIn_eq (s : State) : (notifyComplete s).failIn = s.failIn :=
  (effects_notifyComplete s).untouched.failIn

/-! ## The record in memory -/

/-- The clock does not go back (R194). -/
theorem clockLast_le_now (s : State) : s.clockLast ≤ (now s).2.clockLast := by
  show s.clockLast ≤ if s.clockLast ≤ Config.clockValue s.clockReads then Config.clockValue s.clockReads else s.clockLast
  split
  next h => exact h
  next => exact BitVec.le_refl _

/-- The interrupt changes the registers and the line, by the two configured bits (R34, R36, R193, R374). -/
theorem notifyInterrupt_eq (type : Word) (s : State) :
    notifyInterrupt type s = { s with
      ctl := if type = 0 then s.ctl
             else { s.ctl with grIntr := s.ctl.grIntr ||| (1 : Word) <<< s.cfg.bits.grNotify.val,
                               grNsource := s.ctl.grNsource ||| (1 : Word) <<< s.cfg.bits.nsourceNotify.val },
      irqOut := if type = 0 then s.irqOut
                else s.irqOut ++ [irqLine s.cfg.bits (notifyInterrupt type s).ctl] } := by
  by_cases h : type = 0
  · simp only [notifyInterrupt, h, if_true]
  · simp only [notifyInterrupt, h, if_false, raiseNotify, updateIrq, bitMask_eq_shiftLeft]

section
variable {s : State} (h : s.ch.notifyArmed = true)
include h

/-- Memory after the step is memory after the record. -/
theorem notifyComplete_dev :
    (notifyComplete s).dev = (writeRecord s.sc.notifier (now s).1 (now s).2).dev := by
  rw [notifyComplete_armed h, notifyInterrupt_eq]
  rfl

theorem notifyComplete_sysBus :
    (notifyComplete s).sysBus = (writeRecord s.sc.notifier (now s).1 (now s).2).sysBus := by
  rw [notifyComplete_armed h, notifyInterrupt_eq]
  rfl

theorem notifyComplete_clockLast : (notifyComplete s).clockLast = (now s).2.clockLast := by
  rw [notifyComplete_armed h, notifyInterrupt_eq, writeRecord_frame]
  rfl

/-- The step as one update: memory and requests, the clock, the flag, the registers and the line. -/
theorem notifyComplete_eq :
    notifyComplete s = { withArmed false s with
      dev := (notifyComplete s).dev, sysBus := (notifyComplete s).sysBus, clockReads := s.clockReads + 1,
      clockLast := (notifyComplete s).clockLast,
      ctl := if s.ch.notifyType = 0 then s.ctl
             else { s.ctl with grIntr := s.ctl.grIntr ||| (1 : Word) <<< s.cfg.bits.grNotify.val,
                               grNsource := s.ctl.grNsource ||| (1 : Word) <<< s.cfg.bits.nsourceNotify.val },
      irqOut := if s.ch.notifyType = 0 then s.irqOut
                else s.irqOut ++ [irqLine s.cfg.bits (notifyComplete s).ctl] } := by
  rw [notifyComplete_dev h, notifyComplete_sysBus h, notifyComplete_clockLast h, notifyComplete_armed h]
  conv_lhs => rw [notifyInterrupt_eq, writeRecord_frame]
  rw [writeRecord_frame]
  rfl

/-- What the items of the record hold after the step, where storing them moves none of them. -/
theorem notifyComplete_stored (hwf : s.dev.wf = true) (hsteady : Steady s (recordItems s.sc.notifier)) :
    Stored s (notifyComplete s) (recordStores s.sc.notifier (notifyComplete s).clockLast) := by
  have hitems : ∀ w ∈ recordStores s.sc.notifier (now s).1, w.1 ∈ recordItems s.sc.notifier ∧ w.1.size ≤ 4 := by
    simp [recordStores, recordItems]
  obtain ⟨-, hstored⟩ := stored_storeAll (s := (now s).2) hwf hsteady (recordStores s.sc.notifier (now s).1)
    (fun w hw => (hitems w hw).1) (fun w hw => (hitems w hw).2)
  rw [← writeRecord_eq_storeAll] at hstored
  unfold Stored at hstored ⊢
  rw [notifyComplete_dev h, notifyComplete_sysBus h, notifyComplete_clockLast h]
  exact hstored

end

/-! ## A linear notifier on device memory -/

/-- A word is what its bytes are (R71). -/
theorem devRead_of_bytes {s : State} {a v : Word} (hin : a.toNat + 4 ≤ s.cfg.vramSize)
    (h : ∀ k, k < 4 → getByte s.dev (a.toNat + k) = byteOf v.toNat k) : devRead s a 4 = v :=
  word_ext fun k hk => by rw [devRead_toNat (le_refl 4) hin, byteOf_readLE hk, h k hk]

/-- Every item of the record is at an offset of at most 12. -/
theorem recordItems_offset {n : Word} {c : Item} (hc : c ∈ recordItems n) : ∃ o, o ≤ 12 ∧ c = ⟨n, BitVec.ofNat 32 o, 4⟩ := by
  simp only [recordItems, List.mem_cons, List.not_mem_nil, or_false] at hc
  obtain rfl | rfl | rfl | rfl := hc
  exacts [⟨0, by decide, rfl⟩, ⟨4, by decide, rfl⟩, ⟨8, by decide, rfl⟩, ⟨12, by decide, rfl⟩]

section
variable {s : State} {n : Word} (hlinear : LinearDev s n) (hin : (viewBase s n).toNat + 16 ≤ s.cfg.vramSize)
include hlinear

theorem dmaXlate_of_linear (off : Word) : dmaXlate s n off = (.dev, viewBase s n + off) :=
  dmaXlate_linear hlinear rfl (fun _ _ _ => rfl) off

/-- Translation through it reads the first and the third word of its descriptor (R84). -/
theorem xlateReads_of_linear (off : Word) : xlateReads s n off = [n, n + 8] := by
  obtain ⟨-, -, -, hflag⟩ := hlinear
  have hbit : (devRead s n 4).getLsbD 13 = true := by
    rw [field_bit] at hflag
    by_contra hne
    rw [if_neg hne] at hflag
    exact absurd hflag (by decide)
  simp only [xlateReads, hbit, if_true]

include hin

/-- The places of the record's words do not wrap. -/
theorem record_addr {o : Nat} (ho : o ≤ 12) :
    (viewBase s n + BitVec.ofNat 32 o).toNat = (viewBase s n).toNat + o := by
  obtain ⟨hsize, -⟩ := hlinear
  rw [BitVec.toNat_add, BitVec.toNat_ofNat, Nat.mod_eq_of_lt (by omega : o < 2 ^ 32), Nat.mod_eq_of_lt (by omega)]

theorem record_covers_iff {o a : Nat} (ho : o ≤ 12) :
    Item.covers s ⟨n, BitVec.ofNat 32 o, 4⟩ a ↔ (viewBase s n).toNat + o ≤ a ∧ a < (viewBase s n).toNat + o + 4 := by
  simp only [Item.covers, dmaXlate_of_linear hlinear, record_addr hlinear hin ho, true_and, and_iff_right_iff_imp]
  omega

/-- A record beside the descriptor does not move itself. -/
theorem record_steady (hapart : n.toNat + 12 ≤ (viewBase s n).toNat ∨ (viewBase s n).toNat + 16 ≤ n.toNat) :
    Steady s (recordItems n) := by
  intro c hc a hcov d hd r hr
  obtain ⟨o, ho, rfl⟩ := recordItems_offset hc
  obtain ⟨o', -, rfl⟩ := recordItems_offset hd
  rw [record_covers_iff hlinear hin ho] at hcov
  rw [xlateReads_of_linear hlinear, List.mem_pair] at hr
  have hthird := linear_bits hlinear
  obtain hfirst | hlast := hr
  · rw [hfirst]
    omega
  · rw [hlast]
    omega

/-- A word of the record that no later one overlaps is read back. -/
theorem record_word {t : State} {ws us vs : List (Item × Word)} {o : Nat} {v : Word} (hcfg : t.cfg = s.cfg)
    (hstored : Stored s t ws) (hws : ws = us ++ (⟨n, BitVec.ofNat 32 o, 4⟩, v) :: vs) (ho : o ≤ 12)
    (hlater : ∀ x ∈ vs, ∃ o', o + 4 ≤ o' ∧ o' ≤ 12 ∧ x.1 = ⟨n, BitVec.ofNat 32 o', 4⟩) :
    devRead t (viewBase s n + BitVec.ofNat 32 o) 4 = v := by
  obtain ⟨-, hbytes, -, -⟩ := hstored
  have haddr := record_addr hlinear hin ho
  refine devRead_of_bytes (by rw [haddr, hcfg]; omega) fun k hk => ?_
  have hbyte := hbytes us _ vs hws k hk
  simp only [dmaXlate_of_linear hlinear] at hbyte
  refine hbyte ?covered fun x hx => ?later
  case covered =>
    rw [record_covers_iff hlinear hin ho, haddr]
    omega
  case later =>
    obtain ⟨o', hle, ho', hitem⟩ := hlater x hx
    rw [hitem, record_covers_iff hlinear hin ho', haddr]
    omega

/-- What storing a record through it leaves: the four words, every other byte, and no request. -/
theorem record_linear {t : State} {T : BitVec 64} (hcfg : t.cfg = s.cfg) (hstored : Stored s t (recordStores n T)) :
    devRead t (viewBase s n) 4 = T.setWidth 32 ∧ devRead t (viewBase s n + 4) 4 = (T >>> 32).setWidth 32
      ∧ devRead t (viewBase s n + 8) 4 = 0 ∧ devRead t (viewBase s n + 12) 4 = 0
      ∧ (∀ a, (a < (viewBase s n).toNat ∨ (viewBase s n).toNat + 16 ≤ a) → getByte t.dev a = getByte s.dev a)
      ∧ t.sysBus = s.sysBus := by
  have hword := fun us vs o v => record_word (us := us) (vs := vs) (o := o) (v := v) hlinear hin hcfg hstored
  have hzero := hword [] _ 0 _ rfl (by decide) (by
    simp only [List.mem_cons, List.not_mem_nil, or_false, forall_eq_or_imp, forall_eq]
    exact ⟨⟨4, by decide, by decide, rfl⟩, ⟨8, by decide, by decide, rfl⟩, ⟨12, by decide, by decide, rfl⟩⟩)
  have hfour := hword [_] _ 4 _ rfl (by decide) (by
    simp only [List.mem_cons, List.not_mem_nil, or_false, forall_eq_or_imp, forall_eq]
    exact ⟨⟨8, by decide, by decide, rfl⟩, ⟨12, by decide, by decide, rfl⟩⟩)
  have height := hword [_, _] _ 8 _ rfl (by decide) (by
    simp only [List.mem_cons, List.not_mem_nil, or_false, forall_eq]
    exact ⟨12, by decide, by decide, rfl⟩)
  have htwelve := hword [_, _, _] [] 12 _ rfl (by decide) (by simp)
  rw [show viewBase s n + BitVec.ofNat 32 0 = viewBase s n from BitVec.add_zero _] at hzero
  obtain ⟨hother, -, -, hbus⟩ := hstored
  refine ⟨hzero, hfour, height, htwelve, fun a ha => hother a fun w hw hcov => ?_, ?bus⟩
  · have hitem : w.1 ∈ recordItems n := List.mem_map_of_mem (f := Prod.fst) hw
    obtain ⟨o, ho, hw1⟩ := recordItems_offset hitem
    rw [hw1, record_covers_iff hlinear hin ho] at hcov
    omega
  case bus =>
    rw [hbus]
    simp [recordStores, dmaXlate_of_linear hlinear]

end

/-! ## A notifier in system memory -/

theorem and_byteMask_four (v : Word) : v &&& byteMask 4 = v := BitVec.and_allOnes

/-- A record through an object on system memory is four requests (R76). -/
theorem writeRecord_sys {s : State} {n : Word} (h : (dmaXlate s n 0).1 = .sys) (T : BitVec 64) :
    (writeRecord n T s).dev = s.dev
      ∧ (writeRecord n T s).sysBus = s.sysBus ++ [.write (dmaXlate s n 0).2 4 (T.setWidth 32),
          .write (dmaXlate s n 4).2 4 ((T >>> 32).setWidth 32), .write (dmaXlate s n 8).2 4 0,
          .write (dmaXlate s n 12).2 4 0] := by
  have htarget : ∀ off, (dmaXlate s n off).1 = .sys := fun off =>
    ((dmaXlate_target s n off).trans (dmaXlate_target s n 0).symm).trans h
  have hwrite : ∀ (off v : Word) (bus : List SysReq), dmaWrite n off 4 v { s with sysBus := bus }
      = { s with sysBus := bus ++ [.write (dmaXlate s n off).2 4 v] } := fun off v bus => by
    have hx : dmaXlate { s with sysBus := bus } n off = dmaXlate s n off := rfl
    rw [dmaWrite_sys_target (by rw [hx]; exact htarget off), hx, sysWrite, and_byteMask_four]
  have hfirst := hwrite 0 (T.setWidth 32) s.sysBus
  rw [writeRecord, show dmaWrite n 0 4 (T.setWidth 32) s = _ from hfirst, hwrite 4, hwrite 8, hwrite 12]
  simp

/-- Settles O22: the step as one update, and the three kinds of notifier for what the update leaves in memory. -/
theorem completionRecord : Obligations.CompletionRecord := by
  intro s n t b
  refine ⟨notifyComplete_unarmed, fun h => ⟨?clock, fun hwf hlinear hin hapart => ?linear,
    notifyComplete_stored h, fun hsys => ?sys, notifyComplete_eq h⟩⟩
  case clock =>
    rw [show t.clockLast = _ from notifyComplete_clockLast h]
    exact clockLast_le_now s
  case linear =>
    have hcfg : t.cfg = s.cfg := (effects_notifyComplete s).untouched.cfg
    exact record_linear hlinear hin hcfg (notifyComplete_stored h hwf (record_steady hlinear hin hapart))
  case sys =>
    rw [show t.dev = _ from notifyComplete_dev h, show t.sysBus = _ from notifyComplete_sysBus h,
      show t.clockLast = _ from notifyComplete_clockLast h]
    exact writeRecord_sys (s := (now s).2) hsys (now s).1

end Sys2Proof.Machine
end

section
/-! Routing of the methods above the channel-global range (41_method_dispatch.md R189 to R191): when a number is no
method's on its route, and what becomes of the word: O17 and O18. -/
namespace Sys2Proof

/-! ## Rows and the methods of a device -/

/-- Every number that a row stands for is one of a method's numbers in the table: between its first and its last, and of
the same parity where these are two apart. -/
def MethodRow.within (r : MethodRow) (e : MthdEntry) : Bool :=
  decide (e.table.toNat ≤ r.pat.toNat) && decide ((r.pat ||| ~~~r.mask).toNat < e.table.toNat + e.step * e.count)
    && (e.step == 1 || e.step == 2 && r.mask &&& 1 == 1 && r.pat &&& 1 == e.table &&& 1)

/-- A number that hits a row is one of the numbers of a method that the row is within. -/
theorem MthdEntry.has_of_hit {r : MethodRow} {e : MthdEntry} (hw : r.within e = true) {m : Word}
    (hm : m.toNat < 0x800) (hhit : r.hit (m.setWidth 11) = true) : ∃ k, e.Has e.table m k := by
  simp only [MethodRow.within, Bool.and_eq_true, Bool.or_eq_true, decide_eq_true_eq, beq_iff_eq] at hw
  obtain ⟨⟨hfirst, hlast⟩, hstep⟩ := hw
  have hnum : (m.setWidth 11).toNat = m.toNat := by
    simp only [BitVec.toNat_setWidth]
    omega
  have hge := MethodRow.pat_le_of_hit hhit
  have hle := MethodRow.le_of_hit hhit
  rw [hnum] at hge hle
  obtain hone | ⟨⟨htwo, hmask⟩, hparity⟩ := hstep
  · rw [hone] at hlast
    exact ⟨m.toNat - e.table.toNat, by omega, by rw [hone]; omega, hm⟩
  · have hbit : m.setWidth 11 &&& 1 = e.table &&& 1 := by
      rw [← hparity, ← (r.hit_iff _).1 hhit, BitVec.and_assoc, hmask]
    have hmod : m.toNat % 2 = e.table.toNat % 2 := by
      have := congrArg BitVec.toNat hbit
      simpa [BitVec.toNat_and, Nat.and_one_is_mod, hnum] using this
    rw [htwo] at hlast
    exact ⟨(m.toNat - e.table.toNat) / 2, by omega, by rw [htwo]; omega, hm⟩

/-- Where a method's numbers lie in the table does not depend on the device. -/
def MthdEntry.inTable (e : MthdEntry) : MthdEntry := { e with base := 0 }

theorem Mthds.onRoute_inTable (n : Mthds) (cls : Option Cls) :
    (n.onRoute (.graphics cls)).map (·.inTable) = (mthdsDefault.onRoute (.graphics cls)).map (·.inTable) := by
  rcases cls with _ | c
  · rfl
  · cases c <;> rfl

/-- The rows that a graphics class can select. -/
def routeRows : Option Cls → List MethodRow
  | none => graphicsRows
  | some c => graphicsRows ++ classRows c

theorem routeRows_within_default (cls : Option Cls) :
    ∀ r ∈ routeRows cls, ∃ e ∈ (mthdsDefault.onRoute (.graphics cls)).map (·.inTable), r.within e = true := by
  rcases cls with _ | c
  · decide
  · cases c <;> decide

/-- Every row of a route is within a method of the route, in every device. -/
theorem routeRows_within (n : Mthds) {cls : Option Cls} {r : MethodRow} (hr : r ∈ routeRows cls) :
    ∃ e ∈ n.onRoute (.graphics cls), r.within e = true := by
  obtain ⟨e', he', hw⟩ := routeRows_within_default cls r hr
  rw [← n.onRoute_inTable cls] at he'
  obtain ⟨e, he, rfl⟩ := List.mem_map.1 he'
  exact ⟨e, he, hw⟩

/-! ## Numbers that no method has -/

theorem Mthds.onRoute_step_pos (n : Mthds) (r : Route) : ∀ e ∈ n.onRoute r, 0 < e.step := by
  rcases r with _ | _ | _ | c
  · simp [Mthds.onRoute]
  · simp [Mthds.onRoute]
  · simp [Mthds.onRoute, Mthds.graphics]
  · cases c <;> simp [Mthds.onRoute, Mthds.graphics, Mthds.ofClass]

/-- On the graphics engine a number from `0x040` on that the table gives to no method of the route is `DATA`'s. -/
theorem decodeParam_graphics_free {n : Mthds} {cls : Option Cls} {m : Word} (hge : 0x040 ≤ m.toNat)
    (h : ∀ e ∈ n.onRoute (.graphics cls), ∀ k, ¬ e.Has e.table m k) (p : Word) :
    decodeParam (.graphics cls) m p = .data p := by
  have hmiss : ∀ rows : List MethodRow, (∀ r ∈ rows, r ∈ routeRows cls) → selectRow rows m p = none :=
    fun rows hrows => selectRow_none fun hm r hr => Bool.eq_false_iff.2 fun hhit => by
      obtain ⟨e, he, hw⟩ := routeRows_within n (hrows r hr)
      obtain ⟨k, hk⟩ := MthdEntry.has_of_hit hw hm hhit
      exact h e he k hk
  unfold decodeParam
  rw [if_neg (Nat.not_lt.2 hge)]
  cases cls with
  | none => simp only [hmiss graphicsRows fun r hr => hr]
  | some c =>
    simp only [hmiss graphicsRows fun r hr => List.mem_append_left _ hr,
      hmiss (classRows c) fun r hr => List.mem_append_right _ hr, Option.getD_none]

/-- Above the channel-global range a number that no method of the route has in the device is no row's: it has no number
of the table, or its own, which the table gives to no method of the route. -/
theorem decodeParam_of_no_method {n : Mthds} {r : Route} {m t : Word} (href : m ≠ n.refCnt.setWidth 32)
    (hg : n.globalLast.toNat < m.toNat) (hnone : ∀ e ∈ n.onRoute r, ∀ k, ¬ e.Has e.base m k)
    (ht : n.rowNumber r m = some t) (p : Word) : decodeParam r t p = .data p := by
  by_cases htable : ∀ e ∈ n.onRoute r, ∀ k, ¬ e.Has e.table m k
  · rw [Mthds.rowNumber_free href hg hnone htable] at ht
    obtain ⟨hge, rfl⟩ : 0x040 ≤ m.toNat ∧ m = t := by simpa using ht
    cases r with
    | software => exact if_neg (Nat.not_lt.2 hge)
    | unknownEngine => exact if_neg (Nat.not_lt.2 hge)
    | graphics cls => exact decodeParam_graphics_free hge htable p
  · push Not at htable
    obtain ⟨e, he, k, hk⟩ := htable
    have hstep : 0 < e.step := n.onRoute_step_pos r e he
    rw [Mthds.rowNumber_table_only href hg hnone he hstep hk] at ht
    cases ht

end Sys2Proof

namespace Sys2Proof.Machine

open Sys2Proof

/-! ## The route -/

/-- The software engine has no methods of its own; which engine it is, is decided first (R189, R190). -/
theorem route_software {s : State} (h : s.sc.engine = engSw) : s.route = .software := if_pos h

theorem route_graphics {s : State} (hsw : s.sc.engine ≠ engSw) (hgr : s.sc.engine = s.cfg.engGr) :
    s.route = .graphics (clsOf s.cfg s.classId) := by
  rw [State.route, if_neg hsw, if_pos hgr]

theorem route_unknownEngine {s : State} (hsw : s.sc.engine ≠ engSw) (hgr : s.sc.engine ≠ s.cfg.engGr) :
    s.route = .unknownEngine := by
  rw [State.route, if_neg hsw, if_neg hgr]

/-! ## What becomes of a word that no method takes -/

/-- The effects of a word above the channel-global range that no method takes, by its route (R189 to R191). -/
def noMethodEffects (r : Route) (m p : Word) : State → State :=
  match r with
  | .software => doSoftware p
  | .unknownEngine => doUnknownEngine p
  | .graphics none => classMethod m p doUnknownClass
  | .graphics (some _) => classMethod m p doUnknownMethod

theorem doNoRow_of_not_global {s : State} (hg : s.cfg.mthds.globalLast.toNat < s.ch.mthd.toNat) (p : Word) :
    doNoRow p s = noMethodEffects s.route s.ch.mthd p s := by
  have hglobal : s.cfg.mthds.isGlobal s.ch.mthd = false := decide_eq_false (Nat.not_le.2 hg)
  unfold doNoRow
  rw [hglobal]
  rcases s.route with _ | _ | _ | c <;> rfl

/-- `DATA` under a number above the channel-global range that the device gives to no method of the route. -/
theorem exec_data_of_no_method {s : State} {r : Route} (hroute : s.route = r)
    (hg : s.cfg.mthds.globalLast.toNat < s.ch.mthd.toNat) (href : s.ch.mthd ≠ s.cfg.mthds.refCnt.setWidth 32)
    (hnone : ∀ e ∈ s.cfg.mthds.onRoute r, ∀ k, ¬ e.Has e.base s.ch.mthd k) (p : Word) :
    exec (.data p) s = .next (paramWord p (noMethodEffects r s.ch.mthd p) s) := by
  subst hroute
  refine exec_data_of_dispatch ?_
  have hnoRow : doNoRow p { s with failIn := s.failIn.tail }
      = noMethodEffects s.route s.ch.mthd p { s with failIn := s.failIn.tail } :=
    doNoRow_of_not_global (s := { s with failIn := s.failIn.tail }) hg p
  rw [← hnoRow]
  cases hrow : State.rowNumber { s with failIn := s.failIn.tail } with
  | none => rw [doDispatch, hrow]
  | some t =>
    have hdata : decodeParam s.route t p = .data p := decodeParam_of_no_method href hg hnone hrow p
    rw [doDispatch_of_rowNumber hrow, show State.route { s with failIn := s.failIn.tail } = s.route from rfl, hdata]
    rfl

/-- A method of the software engine is queued, and the interrupt raised (R190, R372). -/
theorem paramWord_software {s : State} (h : s.failNext = .no) (p : Word) :
    paramWord p (doSoftware p) s = afterParam id (doSoftware p s) :=
  paramWord_state h p (g := doSoftware p) rfl rfl

/-- A method of an engine that this block does not have leaves `EV9` (R189). -/
theorem paramWord_unknownEngine {s : State} (h : s.failNext = .no) (p : Word) :
    paramWord p (doUnknownEngine p) s = afterParam id (doUnknownEngine p s) :=
  paramWord_state h p (g := doUnknownEngine p) rfl rfl

/-- Settles O17. -/
theorem softwareMethodsAreQueued : Obligations.SoftwareMethodsAreQueued := by
  intro s p hno hg href hsw ctl'
  have hqueue : doSoftware p s = { s with
      pendq := s.pendq ++ [{ chid := s.cur, subc := s.ch.subc, cls := s.classId, mthd := s.ch.mthd, param := p }],
      ctl := ctl', irqOut := s.irqOut ++ [irqLine s.cfg.bits ctl'] } := by
    simp only [doSoftware, raiseFifo, updateIrq, bitMask_eq_shiftLeft]
    rfl
  calc exec (.data p) s
    _ = .next (paramWord p (doSoftware p) s) :=
      exec_data_of_no_method (route_software hsw) hg href (fun e he => absurd he List.not_mem_nil) p
    _ = .next (afterParam id (doSoftware p s)) := by rw [paramWord_software hno]
    _ = _ := by rw [hqueue]; rfl

/-! ## The graphics engine -/

/-- A class method whose handler leaves `t`, armed or not: the notification step follows it (R189). -/
theorem paramWord_classMethod_complete {s t : State} (h : s.failNext = .no) {m p : Word}
    {handler : Word → State → State}
    (he : handler (paramValue s m p) { resolved s m p with failIn := s.failIn.tail } = { t with failIn := s.failIn.tail })
    (ht : t.failIn = s.failIn) : paramWord p (classMethod m p handler) s = afterParam id (notifyComplete t) := by
  refine paramWord_state h p (g := fun _ => notifyComplete t) ?_ ((notifyComplete_failIn_eq t).trans ht)
  rw [classMethod, resolve_eq, paramValue_failIn, resolved_failIn, he, notifyComplete_failIn]

/-- A number that is none of the engine's own methods and none of the class's is no method's. -/
theorem no_graphics_method {n : Mthds} {m : Word} (hnotify : m ≠ n.notify.setWidth 32)
    (hset : m ≠ n.setNotifier.setWidth 32) : ∀ e ∈ n.graphics, ∀ k, ¬ e.Has e.base m k := by
  simp only [Mthds.graphics, List.mem_cons, List.not_mem_nil, or_false, forall_eq_or_imp, forall_eq]
  exact ⟨fun k hk => hnotify (MthdEntry.has_single_iff.1 ⟨k, hk⟩),
    fun k hk => hset (MthdEntry.has_single_iff.1 ⟨k, hk⟩)⟩

/-- What the re-resolution of a parameter logs, in the configured range (R186). -/
theorem paramEvents_eq (s : State) (m p : Word) :
    paramEvents s m p
      = if s.cfg.mthds.handleFirst.toNat ≤ m.toNat ∧ m.toNat ≤ s.cfg.mthds.handleLast.toNat ∧ hashFind s p s.cur = none
        then [.ev2 p s.cur] else [] := by
  unfold paramEvents
  by_cases h : s.cfg.mthds.takesHandle m = true
  · obtain ⟨hfirst, hlast⟩ := (Mthds.takesHandle_iff _ m).1 h
    rw [if_pos h]
    cases hfind : hashFind s p s.cur with
    | none => rw [(handle_not_found hfind).2, if_pos ⟨hfirst, hlast, rfl⟩]
    | some r => rw [(handle_found hfind).2, if_neg fun hc => by simp at hc]
  · rw [if_neg h, if_neg fun ⟨hfirst, hlast, _⟩ => h ((Mthds.takesHandle_iff _ m).2 ⟨hfirst, hlast⟩)]

/-- Settles O18: a case per route, of which the two of the graphics engine are a class method whose handler logs. -/
theorem unknownTargetsAreLogged : Obligations.UnknownTargetsAreLogged := by
  intro s p hno hg href m cls q es
  refine ⟨fun hsw hgr => ?unknownEngine, fun hsw hgr hnotify hset => ?graphics, notifyComplete_unarmed,
    paramEvents_eq s m p⟩
  case unknownEngine =>
    calc exec (.data p) s
      _ = .next (paramWord p (doUnknownEngine p) s) :=
        exec_data_of_no_method (route_unknownEngine hsw hgr) hg href (fun e he => absurd he List.not_mem_nil) p
      _ = _ := congrArg Host.Outcome.next (paramWord_unknownEngine hno p)
  case graphics =>
    have hroute := route_graphics hsw hgr
    have hown := no_graphics_method hnotify hset
    refine ⟨fun hcls => ?unknownClass, fun c hcls hm => ?unknownMethod⟩
    case unknownClass =>
      rw [show clsOf s.cfg s.classId = none from hcls] at hroute
      calc exec (.data p) s
        _ = .next (paramWord p (classMethod m p doUnknownClass) s) := exec_data_of_no_method hroute hg href hown p
        _ = _ := congrArg Host.Outcome.next
          (paramWord_classMethod_complete hno (t := doUnknownClass q (resolved s m p)) rfl rfl)
    case unknownMethod =>
      rw [show clsOf s.cfg s.classId = some c from hcls] at hroute
      have hnone : ∀ e ∈ s.cfg.mthds.onRoute (.graphics (some c)), ∀ k, ¬ e.Has e.base m k := by
        rintro e he k ⟨hcount, hnum, hlt⟩
        obtain he | he := List.mem_append.1 he
        · exact hown e he k ⟨hcount, hnum, hlt⟩
        · exact hm hlt e he k hcount hnum
      calc exec (.data p) s
        _ = .next (paramWord p (classMethod m p doUnknownMethod) s) := exec_data_of_no_method hroute hg href hnone p
        _ = _ := congrArg Host.Outcome.next
          (paramWord_classMethod_complete hno (t := doUnknownMethod q (resolved s m p)) rfl rfl)

end Sys2Proof.Machine
end

section
/-! The notifier link and BIND (41_method_dispatch.md R182, R183): O15 and O16. -/
namespace Sys2Proof.Machine

open Sys2Proof

/-! ## The link word -/

/-- Word 1 of an object with a link put in its field (R183). -/
def withLink (l : Layout) (w n : Word) : Word :=
  match l with
  | .pre => (w &&& (0x0000FFFF : Word)) ||| (n >>> 4) <<< 16
  | .post => (w &&& 0xFFF00000) ||| ((n >>> 4) &&& 0x000FFFFF)

/-- The link that word 1 of an object holds (R183). -/
def linkOf (l : Layout) (w : Word) : Word :=
  match l with
  | .pre => (w >>> 16) <<< 4
  | .post => (w &&& 0x000FFFFF) <<< 4

/-- A shift by half a word drops the upper half itself. -/
theorem low_half_shiftLeft (x : Word) : ((x &&& 0xFFFF) <<< 16 : Word) = x <<< 16 := by
  apply BitVec.eq_of_toNat_eq
  have hlow : (x &&& 0xFFFF).toNat = x.toNat % 2 ^ 16 := and_mask_toNat x 16 (by decide)
  simp only [BitVec.toNat_shiftLeft, hlow, Nat.shiftLeft_eq]
  omega

theorem linkStore_eq (obj n : Word) (s : State) :
    linkStore obj n s = devWrite (obj + 4) 4 (withLink s.cfg.layout (devRead s (obj + 4) 4) n) s := by
  unfold linkStore withLink
  cases s.cfg.layout with
  | pre => simp only [low_half_shiftLeft]
  | post => rfl

theorem linkLoad_eq (obj : Word) (s : State) : linkLoad obj s = linkOf s.cfg.layout (devRead s (obj + 4) 4) := by
  unfold linkLoad linkOf
  cases s.cfg.layout <;> rfl

/-- The upper half of a link word is the link. -/
theorem linkOf_pre_withLink (w n : Word) : linkOf .pre (withLink .pre w n) = ((n >>> 4) &&& 0xFFFF) <<< 4 := by
  have hlow : ∀ x : Word, (x &&& 0xFFFF).toNat = x.toNat % 2 ^ 16 := fun x => and_mask_toNat x 16 (by decide)
  have hkept : (w &&& 0xFFFF) >>> 16 = 0 := by
    apply BitVec.eq_of_toNat_eq
    simp only [BitVec.toNat_ushiftRight, hlow, Nat.shiftRight_eq_div_pow]
    exact Nat.div_eq_of_lt (Nat.mod_lt _ (by decide))
  have hlink : ((n >>> 4) <<< 16 : Word) >>> 16 = (n >>> 4) &&& 0xFFFF := by
    apply BitVec.eq_of_toNat_eq
    simp only [BitVec.toNat_ushiftRight, BitVec.toNat_shiftLeft, hlow, Nat.shiftRight_eq_div_pow, Nat.shiftLeft_eq]
    omega
  rw [linkOf, withLink, BitVec.ushiftRight_or_distrib, hkept, hlink]
  simp

/-- The low twenty bits of a link word are the link. -/
theorem linkOf_post_withLink (w n : Word) : linkOf .post (withLink .post w n) = ((n >>> 4) &&& 0x000FFFFF) <<< 4 := by
  rw [linkOf, withLink, or_disjoint_and_right (by decide)]

/-- A link store leaves every byte outside word 1 of the object alone. -/
theorem getByte_linkStore_other {s : State} (hwf : s.dev.wf = true) {obj n : Word} {a : Nat}
    (h : a < (obj + 4).toNat ∨ (obj + 4).toNat + 4 ≤ a) : getByte (linkStore obj n s).dev a = getByte s.dev a := by
  rw [linkStore_eq]
  exact getByte_devWrite_other hwf h

theorem linkStore_wf {s : State} (hwf : s.dev.wf = true) (obj n : Word) : (linkStore obj n s).dev.wf = true := by
  rw [linkStore_eq]
  exact devWrite_wf hwf _ _ _

/-- Settles O15: the store writes the link word over word 1, and the load reads it back from there. -/
theorem linkWord : Obligations.LinkWord := by
  intro s obj n hwf
  refine ⟨?inside, fun hout => ?outside⟩
  case inside =>
    intro hin t link high w
    have hin := (inVram_iff _ _ _).1 hin
    have hread : devRead t (obj + 4) 4 = withLink s.cfg.layout w n := by
      rw [show t = _ from linkStore_eq obj n s]
      exact devRead_devWrite_same hwf hin
    have hload : linkLoad obj t = linkOf s.cfg.layout (withLink s.cfg.layout w n) := by
      rw [linkLoad_eq, hread, show t.cfg = s.cfg from linkStore_cfg obj n s]
    refine ⟨linkStore_frame obj n s, fun hpre => ?_, fun hpost => ?_, fun a ha => getByte_linkStore_other hwf ha⟩
    · rw [hload, hread, hpre, linkOf_pre_withLink]
      exact ⟨rfl, rfl⟩
    · rw [hload, hread, hpost, linkOf_post_withLink]
      exact ⟨rfl, rfl⟩
  case outside =>
    rw [linkStore_eq]
    exact devWrite_out (Nat.not_le.1 fun hin => Bool.eq_false_iff.1 hout ((inVram_iff _ _ _).2 hin))

/-! ## The rebind -/

/-- Two changes of the current binding are one. -/
theorem modSc_modSc (f g : Subchannel → Subchannel) (s : State) :
    modSc g (modSc f s) = modSc (fun y => g (f y)) s := by
  rw [modSc, modSc, modCh_modCh]
  refine modCh_congr ?_
  show (s.ch.setSub s.ch.subc _).setSub s.ch.subc (g ((s.ch.setSub s.ch.subc _).subAt s.ch.subc)) = _
  rw [subAt_setSub, setSub_setSub]

theorem modSc_id (s : State) : modSc (fun y => y) s = s := by
  simp only [modSc, setSub_subAt, modCh_id]

theorem modSc_congr {f g : Subchannel → Subchannel} {s : State} (h : f s.sc = g s.sc) : modSc f s = modSc g s :=
  modCh_congr (congrArg (s.ch.setSub s.ch.subc) h)

/-- A change of the binding leaves the rest of the state for another update. -/
theorem modSc_withDev (f : Subchannel → Subchannel) (s : State) (m : Memory) :
    { modSc f s with dev := m } = modSc f { s with dev := m } := rfl

theorem modSc_withFailIn (f : Subchannel → Subchannel) (s : State) (l : List FailMode) :
    { modSc f s with failIn := l } = modSc f { s with failIn := l } := rfl

/-- The store before a rebind changes device memory only. -/
theorem linkBefore_frame (s : State) : linkBefore s = { s with dev := (linkBefore s).dev } := by
  unfold linkBefore
  split
  · exact linkStore_frame _ _ s
  · rfl

/-- The rebind as one update: object and engine where the handle is found, `EV2` where it is not (R182). -/
theorem rebind_eq (p : Word) (s : State) :
    rebind p s = modSc (fun y => { y with object := ((hashFind s p s.cur).map (·.1)).getD s.sc.object,
                                          engine := ((hashFind s p s.cur).map (·.2)).getD s.sc.engine })
      { s with events := if (hashFind s p s.cur).isSome then s.events else s.events ++ [.ev2 p s.cur] } := by
  unfold rebind hashLookup
  cases hashFind s p s.cur with
  | none => exact ((modSc_congr rfl).trans (modSc_id _)).symm
  | some r => rfl

/-- What a link store leaves in memory depends on device memory and the parameters only. -/
theorem linkStore_dev_congr {s t : State} (hd : t.dev = s.dev) (hc : t.cfg = s.cfg) (obj n : Word) :
    (linkStore obj n t).dev = (linkStore obj n s).dev := by
  have hread : devRead t (obj + 4) 4 = devRead s (obj + 4) 4 := by rw [devRead, devRead, hd, hc]
  rw [linkStore_eq, linkStore_eq, hread, hc, devWrite, devWrite, hc, hd]
  split
  · rfl
  · exact hd

/-- The link after a rebind as one update, of memory or of the binding (R182). -/
theorem linkAfter_eq (s : State) :
    linkAfter s = modSc
      (fun y => { y with notifier := if s.sc.engine = s.cfg.engGr ∧ s.cfg.postLink = .load then linkLoad s.sc.object s
                                     else s.sc.notifier })
      { s with dev := if s.sc.engine = s.cfg.engGr ∧ s.cfg.postLink = .store
                      then (linkStore s.sc.object s.sc.notifier s).dev else s.dev } := by
  have hkeep : ∀ u : State, modSc (fun y => { y with notifier := u.sc.notifier }) u = u :=
    fun u => (modSc_congr rfl).trans (modSc_id u)
  unfold linkAfter
  by_cases heng : s.sc.engine = s.cfg.engGr
  · cases hlink : s.cfg.postLink with
    | store =>
      simp only [heng, if_true, and_self, and_false, if_false, reduceCtorEq]
      exact (linkStore_frame _ _ s).trans (hkeep { s with dev := (linkStore s.sc.object s.sc.notifier s).dev }).symm
    | load => simp [heng]
  · simp only [heng, if_false, false_and]
    exact (hkeep s).symm

/-! ## BIND as a whole -/

/-- What the handle of BIND resolves to: the lookup comes after the first link store (R182). -/
def bindFound (p : Word) (s : State) : Option (Word × Word) := hashFind (linkBefore s) p s.cur

/-- The object bound after BIND. -/
def bindObject (p : Word) (s : State) : Word := ((bindFound p s).map (·.1)).getD s.sc.object

/-- The engine bound after BIND. -/
def bindEngine (p : Word) (s : State) : Word := ((bindFound p s).map (·.2)).getD s.sc.engine

/-- The notifier after BIND: read from the object's link in the direction `load`. -/
def bindNotifier (p : Word) (s : State) : Word :=
  if bindEngine p s = s.cfg.engGr ∧ s.cfg.postLink = .load then linkLoad (bindObject p s) (linkBefore s)
  else s.sc.notifier

/-- The state after both link stores of BIND, the second in the direction `store`. -/
def bindStored (p : Word) (s : State) : State :=
  if bindEngine p s = s.cfg.engGr ∧ s.cfg.postLink = .store then linkStore (bindObject p s) s.sc.notifier (linkBefore s)
  else linkBefore s

/-- What is logged. -/
def bindEvents (p : Word) (s : State) : List Event :=
  if (bindFound p s).isSome then s.events else s.events ++ [.ev2 p s.cur]

/-- The binding that BIND leaves. -/
def bindBinding (p : Word) (s : State) : Subchannel :=
  { object := bindObject p s, engine := bindEngine p s, notifier := bindNotifier p s }

section
variable (p : Word) (s : State)

theorem linkBefore_sc : (linkBefore s).sc = s.sc := by
  rw [linkBefore_frame]
  rfl

theorem linkBefore_cur : (linkBefore s).cur = s.cur := by
  rw [linkBefore_frame]
  rfl

theorem linkBefore_cfg : (linkBefore s).cfg = s.cfg := by rw [linkBefore_frame]

/-- The binding and the log after the rebind. -/
theorem rebind_linkBefore :
    rebind p (linkBefore s)
      = modSc (fun y => { y with object := bindObject p s, engine := bindEngine p s })
          { s with dev := (linkBefore s).dev, events := bindEvents p s } := by
  have hevents : (linkBefore s).events = s.events := by rw [linkBefore_frame]
  rw [rebind_eq, linkBefore_cur, hevents, linkBefore_sc]
  exact congrArg (fun u : State => modSc (fun y => { y with object := bindObject p s, engine := bindEngine p s })
    { u with events := bindEvents p s }) (linkBefore_frame s)

/-- BIND as one update of the binding, of memory and of the log (R182). -/
theorem doBind_eq :
    doBind p s = modSc (fun _ => bindBinding p s)
      { s with dev := (bindStored p s).dev, events := bindEvents p s } := by
  generalize hu : rebind p (linkBefore s) = u
  have hrebind := rebind_linkBefore p s
  rw [hu] at hrebind
  have hdev : u.dev = (linkBefore s).dev := by rw [hrebind]; rfl
  have hcfg : u.cfg = s.cfg := by rw [hrebind]; rfl
  have hsc : u.sc = { object := bindObject p s, engine := bindEngine p s, notifier := s.sc.notifier } := by
    rw [hrebind, modSc_sc]
    rfl
  have hload : linkLoad (bindObject p s) u = linkLoad (bindObject p s) (linkBefore s) := by
    rw [linkLoad_eq, linkLoad_eq, hcfg, linkBefore_cfg, devRead, devRead, hdev, hcfg, linkBefore_cfg]
  have hstore : (linkStore (bindObject p s) s.sc.notifier u).dev
      = (linkStore (bindObject p s) s.sc.notifier (linkBefore s)).dev :=
    linkStore_dev_congr hdev (hcfg.trans (linkBefore_cfg s).symm) _ _
  have hstored : (if bindEngine p s = s.cfg.engGr ∧ s.cfg.postLink = .store
      then (linkStore (bindObject p s) s.sc.notifier (linkBefore s)).dev else (linkBefore s).dev)
        = (bindStored p s).dev := by
    unfold bindStored
    split <;> rfl
  calc doBind p s
    _ = linkAfter u := congrArg linkAfter hu
    _ = modSc (fun y => { y with notifier := bindNotifier p s }) { u with dev := (bindStored p s).dev } := by
      rw [linkAfter_eq, hcfg, hsc, hload, hstore, hdev, hstored, bindNotifier]
    _ = modSc (fun y => { y with notifier := bindNotifier p s })
          (modSc (fun y => { y with object := bindObject p s, engine := bindEngine p s })
            { s with dev := (bindStored p s).dev, events := bindEvents p s }) := by
      rw [hrebind, modSc_withDev]
    _ = _ := modSc_modSc _ _ _

end

/-! ## BIND and the oracle -/

/-- A link store neither reads nor changes the oracle's answers. -/
theorem linkStore_withFailIn (obj n : Word) (s : State) (l : List FailMode) :
    linkStore obj n { s with failIn := l } = { linkStore obj n s with failIn := l } := by
  rw [linkStore_eq, linkStore_eq, devWrite_withFailIn]
  rfl

theorem linkBefore_withFailIn (s : State) (l : List FailMode) :
    linkBefore { s with failIn := l } = { linkBefore s with failIn := l } := by
  by_cases h : s.sc.engine = s.cfg.engGr
  · have h' : (State.sc { s with failIn := l }).engine = (State.cfg { s with failIn := l }).engGr := h
    rw [linkBefore, if_pos h', linkStore_withFailIn, linkBefore, if_pos h]
    rfl
  · have h' : ¬ (State.sc { s with failIn := l }).engine = (State.cfg { s with failIn := l }).engGr := h
    rw [linkBefore, if_neg h', linkBefore, if_neg h]

theorem rebind_withFailIn (p : Word) (s : State) (l : List FailMode) :
    rebind p { s with failIn := l } = { rebind p s with failIn := l } := by
  have hfind : hashFind { s with failIn := l } p s.cur = hashFind s p s.cur :=
    hashFind_congr (s := s) (t := { s with failIn := l }) rfl rfl rfl p s.cur
  rw [rebind, rebind, hashLookup, hashLookup, show State.cur { s with failIn := l } = s.cur from rfl, hfind]
  cases hashFind s p s.cur <;> rfl

theorem linkAfter_withFailIn (s : State) (l : List FailMode) :
    linkAfter { s with failIn := l } = { linkAfter s with failIn := l } := by
  have hload : ∀ obj, linkLoad obj { s with failIn := l } = linkLoad obj s := fun _ => rfl
  rw [linkAfter_eq, linkAfter_eq, modSc_withFailIn, linkStore_withFailIn, hload]
  rfl

/-- BIND neither reads nor changes the oracle's answers. -/
theorem doBind_withFailIn (p : Word) (s : State) (l : List FailMode) :
    doBind p { s with failIn := l } = { doBind p s with failIn := l } := by
  rw [doBind, linkBefore_withFailIn, rebind_withFailIn, linkAfter_withFailIn, doBind]

/-- BIND run through undisturbed. -/
theorem exec_bind {s : State} (h : s.failNext = .no) (p : Word) :
    exec (.bind p) s = .next (afterParam (fun x => x.setSub x.subc (bindBinding p s))
      { s with dev := (bindStored p s).dev, events := bindEvents p s }) := by
  refine congrArg Host.Outcome.next (paramWord_record h p (f := fun x => x.setSub x.subc (bindBinding p s))
    (fun _ => ⟨rfl, rfl, rfl⟩)
    (g := fun s => { s with dev := (bindStored p s).dev, events := bindEvents p s }) ?_ rfl)
  rw [doBind_withFailIn, doBind_eq, modSc_withFailIn]
  rfl

theorem afterParam_dev (f : Channel → Channel) (s : State) : (afterParam f s).dev = s.dev := rfl

/-- The current binding after a parameter word that sets it. -/
theorem afterParam_sc (y : Subchannel) (s : State) : (afterParam (fun x => x.setSub x.subc y) s).sc = y := by
  rw [State.sc, afterParam, ch_modCh]
  exact subAt_setSub _ _ y

/-! ## The bytes that BIND writes -/

/-- The first link store leaves every byte outside word 1 of the object being left alone. -/
theorem getByte_linkBefore_other {s : State} (hwf : s.dev.wf = true) {a : Nat}
    (h : s.sc.engine = s.cfg.engGr → a < (s.sc.object + 4).toNat ∨ (s.sc.object + 4).toNat + 4 ≤ a) :
    getByte (linkBefore s).dev a = getByte s.dev a := by
  unfold linkBefore
  split
  next heng => exact getByte_linkStore_other hwf (h heng)
  next => rfl

theorem linkBefore_wf {s : State} (hwf : s.dev.wf = true) : (linkBefore s).dev.wf = true := by
  unfold linkBefore
  split
  · exact linkStore_wf hwf _ _
  · exact hwf

/-- Both link stores leave every byte outside word 1 of the two objects alone. -/
theorem getByte_bindStored_other {p : Word} {s : State} (hwf : s.dev.wf = true) {a : Nat}
    (hold : s.sc.engine = s.cfg.engGr → a < (s.sc.object + 4).toNat ∨ (s.sc.object + 4).toNat + 4 ≤ a)
    (hnew : bindEngine p s = s.cfg.engGr → s.cfg.postLink = .store →
      a < (bindObject p s + 4).toNat ∨ (bindObject p s + 4).toNat + 4 ≤ a) :
    getByte (bindStored p s).dev a = getByte s.dev a := by
  have hbefore := getByte_linkBefore_other hwf hold
  unfold bindStored
  split
  next hstore => rw [getByte_linkStore_other (linkBefore_wf hwf) (hnew hstore.1 hstore.2), hbefore]
  next => exact hbefore

/-- Settles O16: the statement's intermediate values are the ones named above. -/
theorem bindRebinds : Obligations.BindRebinds := by
  intro s p hno hwf old s1 r obj eng s2 n
  have hs1 : linkBefore s = s1 := rfl
  have hr : bindFound p s = r := by rw [bindFound, hs1]
  have hobj : bindObject p s = obj := by rw [bindObject, hr]
  have heng : bindEngine p s = eng := by rw [bindEngine, hr]
  have hs2 : bindStored p s = s2 := by rw [bindStored, hs1, hobj, heng]
  have hn : bindNotifier p s = n := by rw [bindNotifier, hs1, hobj, heng]
  have hbinding : bindBinding p s = { object := obj, engine := eng, notifier := n } := by
    rw [bindBinding, hobj, heng, hn]
  have hexec := exec_bind hno p
  rw [hbinding, hs2, bindEvents, hr] at hexec
  refine ⟨_, hexec, rfl, afterParam_sc _ _, fun a hold hnew => ?bytes⟩
  case bytes =>
    have hother := getByte_bindStored_other hwf hold (p := p) (by rwa [hobj, heng])
    rw [hs2] at hother
    exact (congrArg (getByte · a) (afterParam_dev _ _)).trans hother

end Sys2Proof.Machine
end

section
/-! Class methods do not look at the arm flag (41_method_dispatch.md R189, R192): O21. -/
namespace Sys2Proof

/-- A class method is a parameter word, and not the row `DATA`. -/
theorem Instr.isParameter_of_isClassMethod {i : Instr} (hi : i.isClassMethod = true) :
    i.isParameter = true ∧ ∀ p, i ≠ .data p := by
  unfold Instr.isClassMethod at hi
  refine ⟨?_, fun p hp => ?_⟩
  · unfold Instr.isParameter
    cases h : encodeSlot i with
    | control => simp [h] at hi
    | param r m => rfl
    | noRow => rfl
  · subst hp
    simp [encodeSlot] at hi

end Sys2Proof

namespace Sys2Proof.Machine

open Sys2Proof

/-! ## Effects that neither read nor change the arm flag -/

/-- The effects are the same whether a notification is armed or not, and leave the flag. -/
def ArmBlind (e : State → State) : Prop := ∀ b s, e (withArmed b s) = withArmed b (e s)

theorem withArmed_withArmed (b c : Bool) (s : State) : withArmed b (withArmed c s) = withArmed b s :=
  modCh_modCh _ _ s

/-- Setting the flag to what it is changes nothing. -/
theorem withArmed_same {s : State} {b : Bool} (h : s.ch.notifyArmed = b) : withArmed b s = s := by
  subst h
  exact modCh_id s

@[simp] theorem withArmed_ch (b : Bool) (s : State) : (withArmed b s).ch = { s.ch with notifyArmed := b } :=
  ch_modCh _ s

@[simp] theorem withArmed_cfg (b : Bool) (s : State) : (withArmed b s).cfg = s.cfg := rfl

/-- A change of the current record that leaves the flag. -/
theorem armBlind_modCh {f : Channel → Channel}
    (hf : ∀ b x, f { x with notifyArmed := b } = { f x with notifyArmed := b }) : ArmBlind (modCh f) := by
  intro b s
  rw [withArmed, modCh_modCh, modCh_modCh]
  exact modCh_congr (hf b s.ch)

theorem armBlind_modIfc (f : IfcState → IfcState) : ArmBlind (modIfc f) := armBlind_modCh fun _ _ => rfl

theorem armBlind_markDirty (r : DirtyRec) : ArmBlind (markDirty r) := fun _ _ => rfl

theorem armBlind_logEvent (e : Event) : ArmBlind (logEvent e) := fun _ _ => rfl

theorem armBlind_dmaWrite (obj off : Word) (n : Nat) (v : Word) : ArmBlind (dmaWrite obj off n v) :=
  fun _ s => dmaWrite_modCh obj off n v _ s

theorem dmaRead_withArmed (obj off : Word) (n : Nat) (b : Bool) (s : State) :
    dmaRead obj off n (withArmed b s) = ((dmaRead obj off n s).1, withArmed b (dmaRead obj off n s).2) := by
  have hx : dmaXlate (withArmed b s) obj off = dmaXlate s obj off := rfl
  rw [dmaRead, dmaRead, hx]
  cases (dmaXlate s obj off).1 <;> rfl

/-- A loop of such rounds. -/
theorem armBlind_loop {f : Nat → State → State} (hf : ∀ i, ArmBlind (f i)) (n : Nat) : ArmBlind (loop n f) := by
  intro b s
  induction n with
  | zero => rfl
  | succ n ih => rw [loop, ih, hf n, loop]

/-- One such effect after another. -/
theorem ArmBlind.comp {e f : State → State} (hf : ArmBlind f) (he : ArmBlind e) : ArmBlind (fun s => f (e s)) :=
  fun b s => (congrArg f (he b s)).trans (hf b (e s))

/-- Such an effect under a condition that does not read the flag either. -/
theorem ArmBlind.ite {c : State → Prop} [DecidablePred c] (hc : ∀ b s, c (withArmed b s) ↔ c s) {e f : State → State}
    (he : ArmBlind e) (hf : ArmBlind f) : ArmBlind (fun s => if c s then e s else f s) := by
  intro b s
  by_cases h : c s
  · simp only [if_pos h, if_pos ((hc b s).2 h), he b s]
  · simp only [if_neg h, if_neg (mt (hc b s).1 h), hf b s]

theorem armBlind_id : ArmBlind (fun s => s) := fun _ _ => rfl

/-- Such an effect or nothing, as a condition on something else says. -/
theorem ArmBlind.when (c : Prop) [Decidable c] {e : State → State} (he : ArmBlind e) :
    ArmBlind (fun s => if c then e s else s) := .ite (c := fun _ => c) (fun _ _ => Iff.rfl) he armBlind_id

/-- Such effects whose arguments are read from the state, past the flag. -/
theorem ArmBlind.of_read {α : Type} {g : State → α} (hg : ∀ b s, g (withArmed b s) = g s) {e : α → State → State}
    (he : ∀ a, ArmBlind (e a)) : ArmBlind (fun s => e (g s) s) :=
  fun b s => (congrArg (fun a => e a (withArmed b s)) (hg b s)).trans (he (g s) b s)

/-! ## The executors -/

section
variable (b : Bool) (s : State)

@[simp] theorem bppNow_withArmed : (withArmed b s).bppNow = s.bppNow := by simp only [State.bppNow, withArmed_ch]; rfl

theorem srcOff_withArmed (x y : Nat) : srcOff (withArmed b s) x y = srcOff s x y := by
  simp only [srcOff, State.srcPitch, bppNow_withArmed, withArmed_ch, withArmed_cfg]

theorem dstOff_withArmed (x y : Nat) : dstOff (withArmed b s) x y = dstOff s x y := by
  simp only [dstOff, State.dstPitch, bppNow_withArmed, withArmed_ch, withArmed_cfg]

theorem getPixel_withArmed (x y : Nat) :
    getPixel x y (withArmed b s) = ((getPixel x y s).1, withArmed b (getPixel x y s).2) := by
  simp only [getPixel, srcOff_withArmed, bppNow_withArmed, withArmed_ch, dmaRead_withArmed]

end

theorem armBlind_putPixel (x y : Nat) (v : Word) : ArmBlind (putPixel x y v) := by
  intro b s
  simp only [putPixel, dstOff_withArmed, bppNow_withArmed, withArmed_ch, armBlind_dmaWrite _ _ _ _ b s]

theorem armBlind_fillPixels (x0 y0 w h : Nat) (clipped : Bool) : ArmBlind (fillPixels x0 y0 w h clipped) := by
  refine armBlind_loop (fun j => armBlind_loop (fun i => ?_) w) h
  refine .ite (fun b u => ?clip) (.of_read (g := fun u => fillColor u.cfg u.ch) (fun b u => ?color)
    fun v => armBlind_putPixel _ _ v) armBlind_id
  case clip => rw [withArmed_ch]; rfl
  case color => rw [withArmed_ch]; rfl

/-- Pixel writes, which an unknown format leaves out (R230). -/
theorem ArmBlind.pixels {e : State → State} (he : ArmBlind e) : ArmBlind (fun s => if s.bppNow ≠ 0 then e s else s) :=
  .ite (c := fun s => s.bppNow ≠ 0) (fun b s => by rw [bppNow_withArmed]) he armBlind_id

theorem armBlind_fill (x0 y0 w h : Nat) (clipped : Bool) : ArmBlind (fill x0 y0 w h clipped) :=
  (armBlind_markDirty _).comp (armBlind_fillPixels x0 y0 w h clipped).pixels

theorem armBlind_copyRect (sx sy dx dy w h : Nat) : ArmBlind (copyRect sx sy dx dy w h) := by
  refine (armBlind_markDirty _).comp (.pixels ?_)
  refine armBlind_loop (fun j => armBlind_loop (fun i b u => ?_) w) h
  simp only [copyPixel, getPixel_withArmed]
  exact armBlind_putPixel _ _ _ b _

theorem armBlind_uploadPixels (dx dy dw dh sw : Nat) : ArmBlind (uploadPixels dx dy dw dh sw) :=
  armBlind_loop (fun j => armBlind_loop (fun i => .of_read
    (g := fun u => imagePixel u.ch.ifc.buf u.bppNow (j * sw + i))
    (fun b u => by rw [withArmed_ch, bppNow_withArmed]) fun v => armBlind_putPixel _ _ v) dw) dh

theorem armBlind_upload : ArmBlind upload := by
  intro b s
  simp only [upload, withArmed_ch, withArmed_cfg]
  exact (armBlind_markDirty _).comp (armBlind_uploadPixels _ _ _ _ _).pixels b s

theorem armBlind_setSizeOut (q : Word) : ArmBlind (setSizeOut q) := by
  intro b s
  simp only [setSizeOut, withArmed_ch, withArmed_cfg, dstOff_withArmed]
  split
  · exact armBlind_modIfc _ b s
  · exact armBlind_modIfc _ b s

theorem armBlind_setSizeIn (q : Word) : ArmBlind (setSizeIn q) := by
  intro b s
  simp only [setSizeIn, withArmed_ch, withArmed_cfg, bppNow_withArmed]
  split
  · exact armBlind_modIfc _ b s
  · split
    · exact armBlind_modIfc _ b s
    · exact armBlind_modIfc _ b s

theorem armBlind_imageData (m q : Word) : ArmBlind (imageData m q) := by
  intro b s
  unfold imageData
  rw [withArmed_ch]
  cases s.ch.ifc.state with
  | fastPath => exact ((armBlind_modIfc _).comp (armBlind_dmaWrite _ _ _ _)) b s
  | configuring => exact armBlind_logEvent _ b s
  | streaming =>
    have hfull : ArmBlind (fun u => if u.ch.ifc.buf.length = u.ch.ifc.need
        then modIfc (fun y => { releaseBuf y with state := .configuring }) (upload u) else u) :=
      .ite (c := fun u => u.ch.ifc.buf.length = u.ch.ifc.need) (fun c u => by rw [withArmed_ch])
        ((armBlind_modIfc _).comp armBlind_upload) armBlind_id
    exact hfull.comp (armBlind_modIfc _) b s

theorem armBlind_copyLines (lines words : Nat) : ArmBlind (copyLines lines words) := by
  refine armBlind_loop (fun l => armBlind_loop (fun k b u => ?_) words) lines
  simp only [copyWord, withArmed_ch, dmaRead_withArmed]
  exact armBlind_dmaWrite _ _ _ _ b _

theorem armBlind_memCopy : ArmBlind memCopy := by
  intro b s
  simp only [memCopy, withArmed_ch]
  exact ArmBlind.comp (.ite (c := fun u => displayMatches u s.ch.m2mf.dstObj = true) (fun _ _ => Iff.rfl)
    (armBlind_markDirty _) armBlind_id) (armBlind_copyLines _ _) b s

theorem armBlind_clearPlane (obj base : Word) (pitch eb x0 y0 w h : Nat) (v : Word) :
    ArmBlind (clearPlane obj base pitch eb x0 y0 w h v) :=
  armBlind_loop (fun _ => armBlind_loop (fun _ => armBlind_dmaWrite _ _ _ _) w) h

theorem armBlind_clearSurfaces (p : Word) : ArmBlind (clearSurfaces p) := by
  intro b s
  simp only [clearSurfaces, withArmed_ch, withArmed_cfg]
  exact (armBlind_markDirty _).comp (((armBlind_clearPlane _ _ _ _ _ _ _ _ _).when _).comp
    ((armBlind_clearPlane _ _ _ _ _ _ _ _ _).when _)) b s

/-! ## Class methods -/

/-- The effects of a class method (R189) whose handler does not look at the arm flag. -/
def ArmBlindMethod (e : State → State) : Prop :=
  ∃ (m : State → Word) (p : Word) (handler : Word → State → State), (∀ s, e s = classMethod (m s) p handler s)
    ∧ (∀ b s, m (withArmed b s) = m s) ∧ ∀ q, ArmBlind (handler q)

/-- Re-resolution does not look at the flag. -/
theorem resolve_withArmed (m p : Word) (b : Bool) (s : State) :
    resolve m p (withArmed b s) = ((resolve m p s).1, withArmed b (resolve m p s).2) := by
  have hfind : hashFind (withArmed b s) p s.cur = hashFind s p s.cur :=
    hashFind_congr (s := s) (t := withArmed b s) rfl rfl rfl p s.cur
  have hlookup : hashLookup p (withArmed b s) = ((hashLookup p s).1, withArmed b (hashLookup p s).2) := by
    rw [hashLookup, hashLookup, show (withArmed b s).cur = s.cur from rfl, hfind]
    cases hashFind s p s.cur <;> rfl
  rw [resolve, resolve, withArmed_cfg, hlookup]
  split
  · rcases hashLookup p s with ⟨_ | r, t⟩ <;> rfl
  · rfl

/-- An armed class method is the unarmed one and then the notification step (R192). -/
theorem ArmBlindMethod.armed {e : State → State} (h : ArmBlindMethod e) {s : State} (harmed : s.ch.notifyArmed = true) :
    e s = notifyComplete (withArmed true (e (withArmed false s))) := by
  obtain ⟨m, p, handler, he, hm, hblind⟩ := h
  have hunarmed : e (withArmed false s) = withArmed false (handler (resolve (m s) p s).1 (resolve (m s) p s).2) := by
    rw [he, hm, classMethod, resolve_withArmed, hblind, notifyComplete_unarmed (by rw [withArmed_ch])]
  have hflag : withArmed true (handler (resolve (m s) p s).1 (resolve (m s) p s).2)
      = handler (resolve (m s) p s).1 (resolve (m s) p s).2 := by
    rw [← hblind, resolve_eq]
    exact congrArg _ (withArmed_same harmed)
  rw [he, hunarmed, withArmed_withArmed, hflag, classMethod]

/-- The parser's bookkeeping commutes with the notification step and with setting the flag. -/
theorem advanceParam_notifyComplete (s : State) : advanceParam (notifyComplete s) = notifyComplete (advanceParam s) := by
  have hcfg : (notifyComplete s).cfg = s.cfg := (effects_notifyComplete s).untouched.cfg
  rw [advanceParam, advanceParam, hcfg]
  exact (notifyComplete_modCh (f := Channel.advance s.cfg) (fun _ => ⟨rfl, rfl, rfl, rfl⟩) (fun _ => rfl) s).symm

theorem advanceParam_withArmed (b : Bool) (s : State) :
    advanceParam (withArmed b s) = withArmed b (advanceParam s) := armBlind_modCh (fun _ _ => rfl) b s

/-- A class method whose handler stores its parameter. -/
theorem armBlindMethod_store {e : State → State} {m : State → Word} {p : Word} {f : Word → Channel → Channel}
    (he : ∀ s, e s = classMethod (m s) p (fun q => modCh (f q)) s) (hm : ∀ b s, m (withArmed b s) = m s)
    (hf : ∀ q b x, f q { x with notifyArmed := b } = { f q x with notifyArmed := b }) : ArmBlindMethod e :=
  ⟨m, p, _, he, hm, fun q => armBlind_modCh (hf q)⟩

/-! ## The ten rows that run an executor or change the state of an upload -/

theorem armBlindMethod_gdiUnclippedSize (i : BitVec 5) (p : Word) : ArmBlindMethod (doGdiUnclippedSize i p) := by
  refine ⟨_, p, _, fun _ => rfl, fun _ _ => rfl, fun q b s => ?_⟩
  simp only [withArmed_ch, withArmed_cfg]
  exact armBlind_fill _ _ _ _ _ b s

theorem armBlindMethod_gdiClippedPoint1 (i : BitVec 5) (p : Word) : ArmBlindMethod (doGdiClippedPoint1 i p) := by
  refine ⟨_, p, _, fun _ => rfl, fun _ _ => rfl, fun q b s => ?_⟩
  simp only [withArmed_ch, withArmed_cfg]
  exact armBlind_fill _ _ _ _ _ b s

theorem armBlindMethod_blitSize (p : Word) : ArmBlindMethod (doBlitSize p) := by
  refine ⟨_, p, _, fun _ => rfl, fun _ _ => rfl, fun q b s => ?_⟩
  simp only [withArmed_ch, withArmed_cfg]
  exact armBlind_copyRect _ _ _ _ _ _ b s

theorem armBlindMethod_m2mfBufferNotify (p : Word) : ArmBlindMethod (doM2mfBufferNotify p) :=
  ⟨_, p, _, fun _ => rfl, fun _ _ => rfl, fun _ => armBlind_memCopy.comp (armBlind_modCh fun _ _ => rfl)⟩

theorem armBlindMethod_d3dClear (p : Word) : ArmBlindMethod (doD3dClear p) :=
  ⟨_, p, _, fun _ => rfl, fun _ _ => rfl, armBlind_clearSurfaces⟩

theorem armBlindMethod_ifcSizeOut (p : Word) : ArmBlindMethod (doIfcSizeOut p) :=
  ⟨_, p, _, fun _ => rfl, fun _ _ => rfl, armBlind_setSizeOut⟩

theorem armBlindMethod_ifcSizeIn (p : Word) : ArmBlindMethod (doIfcSizeIn p) :=
  ⟨_, p, _, fun _ => rfl, fun _ _ => rfl, armBlind_setSizeIn⟩

theorem armBlindMethod_ifcData (m : Mthd) (p : Word) : ArmBlindMethod (doIfcData m p) := by
  refine ⟨fun s => s.cfg.mthds.ifcDataNumber m, p, fun q s => imageData (s.cfg.mthds.ifcDataNumber m) q s, fun s => ?_,
    fun _ _ => rfl, fun q => .of_read (fun _ _ => rfl) fun k => armBlind_imageData k q⟩
  have hcfg : (resolve (s.cfg.mthds.ifcDataNumber m) p s).2.cfg = s.cfg := by rw [resolve_frame]
  rw [doIfcData, classMethod, classMethod, hcfg]

/-! ## Every class method -/

/-- The ten rows above apart, a class method stores its parameter. -/
theorem armBlindMethod_doRow {i : Instr} (hi : i.isClassMethod = true) (q : Word) : ArmBlindMethod (doRow i q) := by
  cases i with
  | gdiUnclippedSize k p => exact armBlindMethod_gdiUnclippedSize k p
  | gdiClippedPoint1 k p => exact armBlindMethod_gdiClippedPoint1 k p
  | ifcSizeOut p => exact armBlindMethod_ifcSizeOut p
  | ifcSizeIn p => exact armBlindMethod_ifcSizeIn p
  | ifcData100 m p => exact armBlindMethod_ifcData m p
  | ifcData200 m p => exact armBlindMethod_ifcData m p
  | ifcData400 m p => exact armBlindMethod_ifcData m p
  | blitSize p => exact armBlindMethod_blitSize p
  | m2mfBufferNotify p => exact armBlindMethod_m2mfBufferNotify p
  | d3dClear p => exact armBlindMethod_d3dClear p
  | _ =>
    first
    | exact Bool.noConfusion hi
    | (delta doRow
       dsimp only
       refine armBlindMethod_store (fun _ => rfl) ?_ ?_
       · exact fun _ _ => rfl
       · exact fun _ _ _ => rfl)

/-- Settles O21: the meaning is the parser's bookkeeping around the row's effects, which are such a class method. -/
theorem armedClassMethod : Obligations.ArmedClassMethod := by
  intro i s hi hno harmed
  obtain ⟨hparam, hdata⟩ := Instr.isParameter_of_isClassMethod hi
  have hrow := exec_row i hparam hdata 0
  have hmethod := armBlindMethod_doRow hi 0
  let s1 : State := { s with failIn := s.failIn.tail }
  refine ⟨advanceParam (doRow i 0 (withArmed false s1)), ?unarmed, ?armed⟩
  case unarmed =>
    exact (hrow _).trans (congrArg Host.Outcome.next (paramWord_no (s := withArmed false s) hno _ _))
  case armed =>
    calc exec i s
      _ = .next (advanceParam (doRow i 0 s1)) := by rw [hrow, paramWord_no hno]
      _ = .next (advanceParam (notifyComplete (withArmed true (doRow i 0 (withArmed false s1))))) := by
        rw [hmethod.armed (s := s1) harmed]
      _ = .next (notifyComplete (withArmed true (advanceParam (doRow i 0 (withArmed false s1))))) := by
        rw [advanceParam_notifyComplete, advanceParam_withArmed]

end Sys2Proof.Machine
end

section
/-! Methods of the state classes, and executors on a surface of an unknown format (42_state_classes.md R210 to R230,
43_raster_classes.md R250, R260, R267, R275): O23, O24 and O37. -/
namespace Sys2Proof

/-- From `0x080` on a number lies beyond the default handle range (R186). -/
theorem mthdsDefault_takesHandle_beyond {m : Word} (h : 0x080 ≤ m.toNat) : mthdsDefault.takesHandle m = false :=
  Bool.eq_false_iff.2 fun hhandle => by
    have hlast : mthdsDefault.handleLast.toNat = 0x07F := rfl
    have := (Mthds.takesHandle_iff mthdsDefault m).1 hhandle
    omega

/-- The number of `PATT_IDX(i)` as a word (R221). -/
theorem mthdIdx4_word : ∀ i : BitVec 4, (mthdIdx4 0x100 i).setWidth 32 = (0x100 : Word) + i.setWidth 32 := by decide

/-- No code from `0xC` on, and not 0, is in the default table or is code 4 (R230). -/
theorem bppDefault_unlisted {f : Word} (hf : f = 0 ∨ 0xC ≤ f.toNat) : f ≠ 4 ∧ ∀ e ∈ bppDefault, e.1 ≠ f := by
  have hknown : ∀ c : Word, c ≠ 0 → c.toNat < 0xC → c ≠ f := by
    rintro c h0 hlt rfl
    exact hf.elim h0 (Nat.not_le.2 hlt)
  have htable : ∀ e ∈ bppDefault, e.1 ≠ 0 ∧ e.1.toNat < 0xC := by decide
  exact ⟨(hknown 4 (by decide) (by decide)).symm, fun e he => hknown e.1 (htable e he).1 (htable e he).2⟩

end Sys2Proof

namespace Sys2Proof.Machine

open Sys2Proof

/-! ## Methods that store a parameter that by default is no handle -/

/-- A method that stores its re-resolved parameter, under a number that by default lies beyond the handle range. -/
theorem stores_plain {s : State} (h : Ready s) (number : Mthds → Word) (f : Word → Channel → Channel) {i : Instr}
    {p : Word} {e : State → State} (hi : exec i s = .next (paramWord p e s))
    (hd : e { s with failIn := s.failIn.tail }
      = classMethod (number s.cfg.mthds) p (fun q => modCh (f q)) { s with failIn := s.failIn.tail })
    (hf : ∀ q, KeepsCounters (f q)) (hn : ∀ q x, (f q x).notifyArmed = x.notifyArmed)
    (hbeyond : 0x080 ≤ (number mthdsDefault).toNat) :
    exec i s = .next (afterParam (f (paramValue s (number s.cfg.mthds) p)) (resolved s (number s.cfg.mthds) p))
      ∧ (s.cfg.mthds = mthdsDefault → exec i s = .next (afterParam (f p) s)) := by
  have hstore := hi.trans (congrArg Host.Outcome.next (paramWord_store h hd hf hn))
  refine ⟨hstore, fun hdef => ?_⟩
  have hplain : s.cfg.mthds.takesHandle (number s.cfg.mthds) = false := by
    rw [hdef]
    exact mthdsDefault_takesHandle_beyond hbeyond
  rw [hstore, paramValue_plain hplain, resolved_plain hplain]

/-- Settles O23: each of the seven methods is a store under a number beyond the default handle range. -/
theorem clipRopAndSurfaceStore : Obligations.ClipRopAndSurfaceStore := by
  intro p s hready n stores
  refine ⟨⟨rfl, ?clipPoint⟩, ⟨rfl, ?clipSize⟩, ⟨rfl, ?rop⟩, ⟨rfl, ?surfFormat⟩, ⟨rfl, ?surfPitch⟩, ⟨rfl, ?surfOfsSrc⟩,
    ⟨rfl, ?surfOfsDst⟩⟩
  case clipPoint =>
    exact stores_plain hready (·.clipPoint.setWidth 32) (fun q x => { x with clip := { x.clip with point := q } }) rfl
      rfl (fun _ _ => ⟨rfl, rfl, rfl⟩) (fun _ _ => rfl) (by decide)
  case clipSize =>
    exact stores_plain hready (·.clipSize.setWidth 32) (fun q x => { x with clip := { x.clip with size := q } }) rfl
      rfl (fun _ _ => ⟨rfl, rfl, rfl⟩) (fun _ _ => rfl) (by decide)
  case rop =>
    exact stores_plain hready (·.rop.setWidth 32) (fun q x => { x with rop := q }) rfl
      rfl (fun _ _ => ⟨rfl, rfl, rfl⟩) (fun _ _ => rfl) (by decide)
  case surfFormat =>
    exact stores_plain hready (fun _ => 0x0C0) (fun q x => { x with surf := { x.surf with format := q } }) rfl
      rfl (fun _ _ => ⟨rfl, rfl, rfl⟩) (fun _ _ => rfl) (by decide)
  case surfPitch =>
    exact stores_plain hready (·.surfPitch.setWidth 32) (fun q x => { x with surf := { x.surf with pitch := q } }) rfl
      rfl (fun _ _ => ⟨rfl, rfl, rfl⟩) (fun _ _ => rfl) (by decide)
  case surfOfsSrc =>
    exact stores_plain hready (·.surfOfsSrc.setWidth 32) (fun q x => { x with surf := { x.surf with ofsSrc := q } }) rfl
      rfl (fun _ _ => ⟨rfl, rfl, rfl⟩) (fun _ _ => rfl) (by decide)
  case surfOfsDst =>
    exact stores_plain hready (·.surfOfsDst.setWidth 32) (fun q x => { x with surf := { x.surf with ofsDst := q } }) rfl
      rfl (fun _ _ => ⟨rfl, rfl, rfl⟩) (fun _ _ => rfl) (by decide)

/-- The sixteen numbers of `PATT_IDX` lie beyond the default handle range (R221). -/
theorem pattIdxNumber_default_beyond : ∀ i : BitVec 4, 0x080 ≤ (mthdsDefault.pattIdxNumber i).toNat := by decide

/-- Settles O24: each pattern method is a store under a number beyond the default handle range. -/
theorem patternStores : Obligations.PatternStores := by
  intro p s hready n stores
  refine ⟨⟨rfl, ?color0⟩, ⟨rfl, ?color1⟩, ⟨rfl, ?mono0⟩, ⟨rfl, ?mono1⟩, fun i => ⟨?decodes, ?idx⟩⟩
  case color0 =>
    exact stores_plain hready (·.pattColor0.setWidth 32) (fun q x => { x with patt := { x.patt with color0 := q } }) rfl
      rfl (fun _ _ => ⟨rfl, rfl, rfl⟩) (fun _ _ => rfl) (by decide)
  case color1 =>
    exact stores_plain hready (·.pattColor1.setWidth 32) (fun q x => { x with patt := { x.patt with color1 := q } }) rfl
      rfl (fun _ _ => ⟨rfl, rfl, rfl⟩) (fun _ _ => rfl) (by decide)
  case mono0 =>
    exact stores_plain hready (·.pattMono0.setWidth 32)
      (fun q x => { x with patt := { x.patt with mono := x.patt.mono.set 0 q } }) rfl
      rfl (fun _ _ => ⟨rfl, rfl, rfl⟩) (fun _ _ => rfl) (by decide)
  case mono1 =>
    exact stores_plain hready (·.pattMono1.setWidth 32)
      (fun q x => { x with patt := { x.patt with mono := x.patt.mono.set 1 q } }) rfl
      rfl (fun _ _ => ⟨rfl, rfl, rfl⟩) (fun _ _ => rfl) (by decide)
  case decodes =>
    rw [← mthdIdx4_word i]
    exact decodeParam_pattIdx i p
  case idx =>
    exact stores_plain hready (·.pattIdxNumber i)
      (fun q x => { x with patt := { x.patt with idx := x.patt.idx.set i.toNat q i.isLt } }) rfl
      rfl (fun _ _ => ⟨rfl, rfl, rfl⟩) (fun _ _ => rfl) (pattIdxNumber_default_beyond i)

/-! ## A surface of an unknown format -/

/-- A format code that a table does not list has no bytes (R230). -/
theorem bytesIn_unlisted {t : List (Word × ElemSize)} {f : Word} (h : ∀ e ∈ t, e.1 ≠ f) : bytesIn t f = 0 := by
  have hnone : t.find? (fun e => e.1 == f) = none :=
    List.find?_eq_none.2 fun e he heq => h e he (eq_of_beq heq)
  rw [bytesIn, hnone]

/-- So a surface of such a format has pixels of no bytes, unless the code is 4 (R230, R231). -/
theorem bppNow_unlisted {s : State} (h4 : s.ch.surf.format ≠ 4) (h : ∀ e ∈ s.cfg.bpp, e.1 ≠ s.ch.surf.format) :
    s.bppNow = 0 :=
  (if_neg h4).trans (bytesIn_unlisted h)

/-- The rectangle that the drawing of an image reports (R267). -/
def uploadRect (s : State) : DirtyRec :=
  .rect (s.cfg.packings.ifcPoint.fst s.ch.ifc.point) (s.cfg.packings.ifcPoint.snd s.ch.ifc.point)
    (s.cfg.packings.ifcSizeOut.fst s.ch.ifc.sizeOut) (s.cfg.packings.ifcSizeOut.snd s.ch.ifc.sizeOut)

section
variable {s : State} (h : s.bppNow = 0)
include h

/-- On it a fill only reports its rectangle (R260). -/
theorem fill_no_pixels (x0 y0 w hgt : Nat) (clipped : Bool) :
    fill x0 y0 w hgt clipped s = markDirty (.rect x0 y0 w hgt) s := by
  rw [fill, if_neg (not_not_intro h)]

/-- So does a block copy (R275). -/
theorem copyRect_no_pixels (sx sy dx dy w hgt : Nat) :
    copyRect sx sy dx dy w hgt s = markDirty (.rect dx dy w hgt) s := by
  rw [copyRect, if_neg (not_not_intro h)]

/-- And the drawing of an image (R267). -/
theorem upload_no_pixels : upload s = markDirty (uploadRect s) s := by
  rw [upload, if_neg (not_not_intro h)]
  rfl

end

/-! ## The last word of an upload -/

/-- The upload record after its image is drawn (R265, R270). -/
def uploadDone (x : Channel) : Channel :=
  { x with ifc := { x.ifc with buf := [], need := 0, state := .configuring } }

/-- The word that completes the image has it drawn and released (R265). -/
theorem imageData_last {s : State} (hstate : s.ch.ifc.state = .streaming)
    (hlast : s.ch.ifc.buf.length + 1 = s.ch.ifc.need) (m q : Word) :
    imageData m q s = modCh uploadDone (upload (modIfc (fun y => { y with buf := y.buf ++ [q] }) s)) := by
  have hfull : (modIfc (fun y => { y with buf := y.buf ++ [q] }) s).ch.ifc.buf.length
      = (modIfc (fun y => { y with buf := y.buf ++ [q] }) s).ch.ifc.need := by
    rw [modIfc, ch_modCh, List.length_append]
    exact hlast
  simp only [imageData, hstate, if_pos hfull]
  rfl

/-- On a surface of an unknown format the word that completes the image reports the rectangle and releases the image
(R230, R267, R270). -/
theorem imageData_last_no_pixels {s : State} (h : s.bppNow = 0) (hstate : s.ch.ifc.state = .streaming)
    (hlast : s.ch.ifc.buf.length + 1 = s.ch.ifc.need) (m q : Word) :
    imageData m q s = modCh uploadDone (markDirty (uploadRect s) s) := by
  have hpixels : (modIfc (fun y => { y with buf := y.buf ++ [q] }) s).bppNow = 0 := by
    rw [State.bppNow, modIfc, ch_modCh]
    exact h
  rw [imageData_last hstate hlast, upload_no_pixels hpixels]
  have hrect : uploadRect (modIfc (fun y => { y with buf := y.buf ++ [q] }) s) = uploadRect s := by
    simp only [uploadRect, modIfc, ch_modCh, modCh_cfg]
  rw [hrect]
  exact modCh_modCh (fun x => { x with ifc := { x.ifc with buf := x.ifc.buf ++ [q] } }) uploadDone (markDirty _ s)

/-- An executor that only reports its rectangle. -/
theorem exec_report {s : State} (h : Ready s) {i : Instr} {m p : Word} {e : State → State}
    {handler : Word → State → State} {r : DirtyRec} (hi : exec i s = .next (paramWord p e s))
    (hd : e { s with failIn := s.failIn.tail } = classMethod m p handler { s with failIn := s.failIn.tail })
    (he : handler (paramValue s m p) { resolved s m p with failIn := s.failIn.tail }
      = markDirty r { resolved s m p with failIn := s.failIn.tail }) :
    exec i s = .next (afterParam id { resolved s m p with dirty := s.dirty ++ [r] }) :=
  hi.trans (congrArg Host.Outcome.next
    (paramWord_draw h hd (X := s.dev) (D := s.dirty ++ [r]) he))

/-- An `IFC_DATA` row under the last word of an upload on a surface of an unknown format (R230, R265). -/
theorem exec_lastImageData_no_pixels {s : State} (hready : Ready s) (h : s.bppNow = 0)
    (hstate : s.ch.ifc.state = .streaming) (hlast : s.ch.ifc.buf.length + 1 = s.ch.ifc.need) {i : Instr} {m : Mthd}
    {p : Word} (hi : exec i s = .next (paramWord p (doIfcData m p) s)) :
    exec i s = .next (afterParam uploadDone
      { resolved s (s.cfg.mthds.ifcDataNumber m) p with dirty := s.dirty ++ [uploadRect s] }) :=
  hi.trans (congrArg Host.Outcome.next (paramWord_classMethod hready (m := s.cfg.mthds.ifcDataNumber m)
    (handler := imageData (s.cfg.mthds.ifcDataNumber m)) rfl (f := uploadDone) (fun _ => ⟨rfl, rfl, rfl⟩)
    (fun _ => rfl) (t := { resolved s (s.cfg.mthds.ifcDataNumber m) p with dirty := s.dirty ++ [uploadRect s] })
    (imageData_last_no_pixels (s := { resolved s (s.cfg.mthds.ifcDataNumber m) p with failIn := s.failIn.tail })
      h hstate hlast _ _) rfl rfl))

/-- Settles O37: the fills and the copy only report, and the last word of an upload besides releases the image. -/
theorem unknownFormatPaintsNothing : Obligations.UnknownFormatPaintsNothing := by
  refine ⟨fun cfg f hdef hf => hdef ▸ bppDefault_unlisted hf, ?_⟩
  intro i m p s hready h4 hunlisted g y b k n report
  have hpixels : s.bppNow = 0 := bppNow_unlisted h4 hunlisted
  refine ⟨?unclipped, ?clipped, ?copy, fun hstate hlast => ?upload⟩
  case unclipped =>
    exact exec_report hready rfl rfl (fill_no_pixels (s := { resolved s _ p with failIn := s.failIn.tail }) hpixels ..)
  case clipped =>
    refine exec_report hready rfl rfl
      ((fill_no_pixels (s := { resolved s _ p with failIn := s.failIn.tail }) hpixels ..).trans ?_)
    have hspan : ∀ a c : Nat, (if a ≥ c then a - c else 0) = a - c := fun a c => by split <;> omega
    rw [hspan, hspan]
    rfl
  case copy =>
    exact exec_report hready rfl rfl
      (copyRect_no_pixels (s := { resolved s _ p with failIn := s.failIn.tail }) hpixels ..)
  case upload =>
    have hdata := fun {j} => exec_lastImageData_no_pixels (i := j) (m := m) (p := p) hready hpixels hstate hlast
    intro j hj _
    simp only [List.mem_cons, List.not_mem_nil, or_false] at hj
    obtain rfl | rfl | rfl := hj
    · exact hdata rfl
    · exact hdata rfl
    · exact hdata rfl

end Sys2Proof.Machine
end

section
/-! Upload records (43_raster_classes.md R263 to R270) under every instruction and every step: O57. -/
namespace Sys2Proof.Machine

open Sys2Proof

/-! ## Effects that keep the current upload record consistent -/

/-- The upload record of the current channel is consistent. -/
structure CurrentUploadOk (s : State) : Prop where
  consistent : s.ch.ifc.consistent

/-- Effects after which the current upload record is consistent if it was before. -/
def KeepsUpload (e : State → State) : Prop := ∀ s, CurrentUploadOk s → CurrentUploadOk (e s)

theorem KeepsUpload.comp {e f : State → State} (hf : KeepsUpload f) (he : KeepsUpload e) :
    KeepsUpload (fun s => f (e s)) := fun s h => hf (e s) (he s h)

theorem keepsUpload_id : KeepsUpload (fun s => s) := fun _ h => h

/-- Effects that leave every channel record and the current channel. -/
theorem keepsUpload_of_chans {e : State → State} (hcur : ∀ s, (e s).ctl.curchan = s.ctl.curchan)
    (hchans : ∀ s, (e s).chans = s.chans) : KeepsUpload e := by
  intro s h
  refine ⟨?_⟩
  rw [ch_congr (hcur s) (hchans s)]
  exact h.consistent

theorem keepsUpload_modCh {f : Channel → Channel} (hf : ∀ x, x.ifc.consistent → (f x).ifc.consistent) :
    KeepsUpload (modCh f) := by
  intro s h
  refine ⟨?_⟩
  rw [ch_modCh]
  exact hf s.ch h.consistent

theorem keepsUpload_loop {f : Nat → State → State} (hf : ∀ i, KeepsUpload (f i)) (n : Nat) : KeepsUpload (loop n f) := by
  intro s h
  induction n with
  | zero => exact h
  | succ n ih => exact hf n _ ih

/-- Such effects, as a condition on the state says. -/
theorem KeepsUpload.ite {c : State → Prop} [DecidablePred c] {e f : State → State} (he : KeepsUpload e)
    (hf : KeepsUpload f) : KeepsUpload (fun s => if c s then e s else f s) := by
  intro s h
  by_cases hc : c s
  · simp only [if_pos hc]
    exact he s h
  · simp only [if_neg hc]
    exact hf s h

/-- Such effects or nothing, as a condition on something else says. -/
theorem KeepsUpload.when (c : Prop) [Decidable c] {e : State → State} (he : KeepsUpload e) :
    KeepsUpload (fun s => if c then e s else s) := .ite (c := fun _ => c) he keepsUpload_id

theorem keepsUpload_logEvent (e : Event) : KeepsUpload (logEvent e) := keepsUpload_of_chans (fun _ => rfl) fun _ => rfl

theorem keepsUpload_markDirty (r : DirtyRec) : KeepsUpload (markDirty r) :=
  keepsUpload_of_chans (fun _ => rfl) fun _ => rfl

theorem keepsUpload_dmaWrite (obj off : Word) (n : Nat) (v : Word) : KeepsUpload (dmaWrite obj off n v) :=
  keepsUpload_of_chans (fun s => by rw [dmaWrite_ctl]) fun s => by rw [dmaWrite_chans]

theorem keepsUpload_dmaRead (obj off : Word) (n : Nat) : KeepsUpload (fun s => (dmaRead obj off n s).2) :=
  keepsUpload_of_chans (fun s => by rw [dmaRead_frame]) fun s => by rw [dmaRead_frame]

theorem keepsUpload_linkStore (obj n : Word) : KeepsUpload (linkStore obj n) :=
  keepsUpload_of_chans (fun s => by rw [linkStore_frame]) fun s => by rw [linkStore_frame]

/-- A binding is no part of an upload record. -/
theorem keepsUpload_modSc (f : Subchannel → Subchannel) : KeepsUpload (modSc f) := keepsUpload_modCh fun _ h => h

/-! ## Class methods -/

theorem keepsUpload_resolve (m p : Word) : KeepsUpload (fun s => (resolve m p s).2) :=
  keepsUpload_of_chans (fun s => by rw [resolve_frame]) fun s => by rw [resolve_frame]

theorem keepsUpload_now : KeepsUpload (fun s => (now s).2) := keepsUpload_of_chans (fun _ => rfl) fun _ => rfl

theorem keepsUpload_raiseNotify : KeepsUpload raiseNotify := keepsUpload_of_chans (fun _ => rfl) fun _ => rfl

theorem keepsUpload_writeRecord (notifier : Word) (t : BitVec 64) : KeepsUpload (writeRecord notifier t) := by
  intro s h
  have hwrite := keepsUpload_dmaWrite notifier
  exact hwrite _ _ _ _ (hwrite _ _ _ _ (hwrite _ _ _ _ (hwrite _ _ _ s h)))

theorem keepsUpload_notifyComplete : KeepsUpload notifyComplete := by
  intro s h
  unfold notifyComplete
  split
  · have hrecord := keepsUpload_writeRecord s.sc.notifier (now s).1 _ (keepsUpload_now s h)
    have hdisarm : KeepsUpload (modCh (fun x => { x with notifyArmed := false })) := keepsUpload_modCh fun _ hx => hx
    simp only
    split
    · exact keepsUpload_raiseNotify _ (hdisarm _ hrecord)
    · exact hdisarm _ hrecord
  · exact h

/-- A class method keeps the record consistent if its handler does. -/
theorem keepsUpload_classMethod (m p : Word) {handler : Word → State → State} (hh : ∀ q, KeepsUpload (handler q)) :
    KeepsUpload (classMethod m p handler) := by
  intro s h
  unfold classMethod
  exact keepsUpload_notifyComplete _ (hh _ _ (keepsUpload_resolve m p s h))

/-- A class method that stores its parameter outside the upload record's state and buffer. -/
theorem keepsUpload_store {e : State → State} (m : State → Word) (p : Word) (f : Word → Channel → Channel)
    (he : ∀ s, e s = classMethod (m s) p (fun q => modCh (f q)) s)
    (hf : ∀ q x, x.ifc.consistent → (f q x).ifc.consistent) : KeepsUpload e := by
  intro s h
  rw [he]
  exact keepsUpload_classMethod _ _ (fun q => keepsUpload_modCh (hf q)) s h

/-! ## The executors -/

theorem keepsUpload_putPixel (x y : Nat) (v : Word) : KeepsUpload (putPixel x y v) :=
  fun s h => keepsUpload_dmaWrite _ _ _ _ s h

theorem keepsUpload_fill (x0 y0 w h : Nat) (clipped : Bool) : KeepsUpload (fill x0 y0 w h clipped) := by
  refine (keepsUpload_markDirty _).comp (.ite ?_ keepsUpload_id)
  refine keepsUpload_loop (fun j => keepsUpload_loop (fun i => .ite (fun u hu => ?_) keepsUpload_id) w) h
  exact keepsUpload_putPixel _ _ _ u hu

theorem keepsUpload_copyRect (sx sy dx dy w h : Nat) : KeepsUpload (copyRect sx sy dx dy w h) := by
  refine (keepsUpload_markDirty _).comp (.ite ?_ keepsUpload_id)
  refine keepsUpload_loop (fun j => keepsUpload_loop (fun i u hu => ?_) w) h
  exact keepsUpload_putPixel _ _ _ _ (keepsUpload_dmaRead _ _ _ u hu)

theorem keepsUpload_memCopy : KeepsUpload memCopy := by
  intro s h
  have hcopy : CurrentUploadOk (copyLines s.ch.m2mf.lineCount.toNat (lineWords s.ch.m2mf) s) := by
    refine keepsUpload_loop (fun l => keepsUpload_loop (fun k u hu => ?_) _) _ s h
    exact keepsUpload_dmaWrite _ _ _ _ _ (keepsUpload_dmaRead _ _ _ u hu)
  unfold memCopy
  simp only
  split
  · exact keepsUpload_markDirty _ _ hcopy
  · exact hcopy

theorem keepsUpload_clearPlane (obj base : Word) (pitch b x0 y0 w h : Nat) (v : Word) :
    KeepsUpload (clearPlane obj base pitch b x0 y0 w h v) :=
  keepsUpload_loop (fun _ => keepsUpload_loop (fun _ => keepsUpload_dmaWrite _ _ _ _) w) h

theorem keepsUpload_clearSurfaces (p : Word) : KeepsUpload (clearSurfaces p) := by
  intro s h
  unfold clearSurfaces
  exact keepsUpload_markDirty _ _ (KeepsUpload.when _ (keepsUpload_clearPlane _ _ _ _ _ _ _ _ _) _
    (KeepsUpload.when _ (keepsUpload_clearPlane _ _ _ _ _ _ _ _ _) s h))

/-! ## The upload state machine -/

/-- A change of the upload record is consistent where the record it makes is. -/
theorem currentUploadOk_modIfc {f : IfcState → IfcState} {s : State} (h : (f s.ch.ifc).consistent) :
    CurrentUploadOk (modIfc f s) := by
  refine ⟨?_⟩
  rw [modIfc, ch_modCh]
  exact h

/-- IFC_SIZE_OUT leaves no buffer (R263). -/
theorem keepsUpload_setSizeOut (q : Word) : KeepsUpload (setSizeOut q) := by
  intro s _
  unfold setSizeOut
  simp only
  split
  · exact currentUploadOk_modIfc ⟨rfl, rfl⟩
  · exact currentUploadOk_modIfc ⟨rfl, rfl⟩

/-- IFC_SIZE_IN makes an empty buffer that wants at least one word, or none (R264). -/
theorem keepsUpload_setSizeIn (q : Word) : KeepsUpload (setSizeIn q) := by
  intro s h
  unfold setSizeIn
  simp only
  split
  case isTrue => exact currentUploadOk_modIfc h.consistent
  case isFalse =>
    split
    case isTrue hpos =>
      refine currentUploadOk_modIfc ?_
      simpa [IfcState.consistent, releaseBuf] using hpos
    case isFalse => exact currentUploadOk_modIfc ⟨rfl, rfl⟩

/-- A data word leaves a streaming upload that still wants words, or releases the buffer (R265, R268, R270). -/
theorem keepsUpload_imageData (m q : Word) : KeepsUpload (imageData m q) := by
  intro s h
  unfold imageData
  cases hstate : s.ch.ifc.state with
  | fastPath =>
    have hwrite := keepsUpload_dmaWrite s.ch.surf.dstObj s.ch.ifc.fastOff 4 q s h
    exact currentUploadOk_modIfc hwrite.consistent
  | configuring => exact keepsUpload_logEvent _ s h
  | streaming =>
    have hwants := h.consistent
    rw [IfcState.consistent, hstate] at hwants
    simp only
    split
    case isTrue => exact currentUploadOk_modIfc ⟨rfl, rfl⟩
    case isFalse hnotFull =>
      rw [modIfc, ch_modCh] at hnotFull
      replace hnotFull : (s.ch.ifc.buf ++ [q]).length ≠ s.ch.ifc.need := hnotFull
      refine currentUploadOk_modIfc ?_
      rw [IfcState.consistent, hstate]
      show (s.ch.ifc.buf ++ [q]).length < s.ch.ifc.need
      rw [List.length_append, List.length_singleton] at hnotFull ⊢
      omega

/-! ## The rows that run an executor or move the state machine -/

/-- A method whose effects are a class method of such a handler. -/
theorem keepsUpload_of_handler {e : State → State} {m : State → Word} {p : Word} {handler : State → Word → State → State}
    (he : ∀ s, e s = classMethod (m s) p (handler s) s) (hh : ∀ s q, KeepsUpload (handler s q)) : KeepsUpload e := by
  intro s h
  rw [he]
  exact keepsUpload_classMethod _ _ (hh s) s h

theorem keepsUpload_gdiUnclippedSize (k : BitVec 5) (p : Word) : KeepsUpload (doGdiUnclippedSize k p) :=
  keepsUpload_of_handler (fun _ => rfl) fun _ _ u hu => keepsUpload_fill _ _ _ _ _ u hu

theorem keepsUpload_gdiClippedPoint1 (k : BitVec 5) (p : Word) : KeepsUpload (doGdiClippedPoint1 k p) :=
  keepsUpload_of_handler (fun _ => rfl) fun _ _ u hu => keepsUpload_fill _ _ _ _ _ u hu

theorem keepsUpload_ifcSizeOut (p : Word) : KeepsUpload (doIfcSizeOut p) :=
  keepsUpload_of_handler (fun _ => rfl) fun _ => keepsUpload_setSizeOut

theorem keepsUpload_ifcSizeIn (p : Word) : KeepsUpload (doIfcSizeIn p) :=
  keepsUpload_of_handler (fun _ => rfl) fun _ => keepsUpload_setSizeIn

theorem keepsUpload_ifcData (m : Mthd) (p : Word) : KeepsUpload (doIfcData m p) :=
  keepsUpload_of_handler (fun _ => rfl) fun s => keepsUpload_imageData (s.cfg.mthds.ifcDataNumber m)

theorem keepsUpload_blitSize (p : Word) : KeepsUpload (doBlitSize p) :=
  keepsUpload_of_handler (fun _ => rfl) fun _ _ u hu => keepsUpload_copyRect _ _ _ _ _ _ u hu

theorem keepsUpload_m2mfBufferNotify (p : Word) : KeepsUpload (doM2mfBufferNotify p) :=
  keepsUpload_of_handler (fun _ => rfl) fun _ _ => keepsUpload_memCopy.comp (keepsUpload_modCh fun _ hx => hx)

theorem keepsUpload_d3dClear (p : Word) : KeepsUpload (doD3dClear p) :=
  keepsUpload_of_handler (fun _ => rfl) fun _ => keepsUpload_clearSurfaces

/-! ## Every row -/

theorem keepsUpload_linkBefore : KeepsUpload linkBefore := by
  intro s h
  unfold linkBefore
  split
  · exact keepsUpload_linkStore _ _ s h
  · exact h

theorem keepsUpload_rebind (p : Word) : KeepsUpload (rebind p) := by
  intro s h
  unfold rebind hashLookup
  cases hashFind s p s.cur with
  | none => exact keepsUpload_logEvent _ s h
  | some r => exact keepsUpload_modSc _ s h

theorem keepsUpload_linkAfter : KeepsUpload linkAfter := by
  intro s h
  unfold linkAfter
  split
  · split
    · exact keepsUpload_linkStore _ _ s h
    · exact keepsUpload_modSc _ s h
  · exact h

theorem keepsUpload_bind (p : Word) : KeepsUpload (doBind p) := by
  intro s h
  unfold doBind
  exact keepsUpload_linkAfter _ (keepsUpload_rebind p _ (keepsUpload_linkBefore s h))

theorem keepsUpload_notify (p : Word) : KeepsUpload (doNotify p) := by
  intro s h
  unfold doNotify
  refine keepsUpload_modCh ?_ _ (keepsUpload_resolve _ p s h)
  exact fun _ hx => hx

theorem keepsUpload_setNotifier (p : Word) : KeepsUpload (doSetNotifier p) := by
  intro s h
  unfold doSetNotifier
  exact keepsUpload_modSc _ _ (keepsUpload_resolve _ p s h)

theorem keepsUpload_globalUndef (m p : Word) : KeepsUpload (doGlobalUndef m p) :=
  keepsUpload_of_chans (fun _ => rfl) fun _ => rfl

theorem keepsUpload_software (p : Word) : KeepsUpload (doSoftware p) :=
  keepsUpload_of_chans (fun _ => rfl) fun _ => rfl

theorem keepsUpload_unknownEngine (p : Word) : KeepsUpload (doUnknownEngine p) :=
  keepsUpload_of_chans (fun _ => rfl) fun _ => rfl

theorem keepsUpload_unknownClass (p : Word) : KeepsUpload (doUnknownClass p) :=
  keepsUpload_of_chans (fun _ => rfl) fun _ => rfl

theorem keepsUpload_unknownMethod (p : Word) : KeepsUpload (doUnknownMethod p) :=
  keepsUpload_of_chans (fun _ => rfl) fun _ => rfl

theorem keepsUpload_noRow (p : Word) : KeepsUpload (doNoRow p) := by
  intro s h
  unfold doNoRow
  split
  case isTrue => exact keepsUpload_globalUndef _ p s h
  case isFalse =>
    split
    · exact keepsUpload_software p s h
    · exact keepsUpload_unknownEngine p s h
    · exact keepsUpload_classMethod _ p keepsUpload_unknownClass s h
    · exact keepsUpload_classMethod _ p keepsUpload_unknownMethod s h

/-- The rows that store their parameter apart, a row runs one of the effects above. -/
theorem keepsUpload_doRow (i : Instr) (q : Word) : KeepsUpload (doRow i q) := by
  cases i with
  | bind p => exact keepsUpload_bind p
  | globalUndef001 p => exact keepsUpload_globalUndef _ p
  | globalUndef002 m p => exact keepsUpload_globalUndef _ p
  | globalUndef004 m p => exact keepsUpload_globalUndef _ p
  | globalUndef008 m p => exact keepsUpload_globalUndef _ p
  | globalUndef010 m p => exact keepsUpload_globalUndef _ p
  | globalUndef015 p => exact keepsUpload_globalUndef _ p
  | globalUndef016 m p => exact keepsUpload_globalUndef _ p
  | globalUndef018 m p => exact keepsUpload_globalUndef _ p
  | globalUndef020 m p => exact keepsUpload_globalUndef _ p
  | refCnt p => exact keepsUpload_of_chans (fun _ => rfl) fun _ => rfl
  | notify p => exact keepsUpload_notify p
  | setNotifier p => exact keepsUpload_setNotifier p
  | gdiUnclippedSize k p => exact keepsUpload_gdiUnclippedSize k p
  | gdiClippedPoint1 k p => exact keepsUpload_gdiClippedPoint1 k p
  | ifcSizeOut p => exact keepsUpload_ifcSizeOut p
  | ifcSizeIn p => exact keepsUpload_ifcSizeIn p
  | ifcData100 m p => exact keepsUpload_ifcData m p
  | ifcData200 m p => exact keepsUpload_ifcData m p
  | ifcData400 m p => exact keepsUpload_ifcData m p
  | blitSize p => exact keepsUpload_blitSize p
  | m2mfBufferNotify p => exact keepsUpload_m2mfBufferNotify p
  | d3dClear p => exact keepsUpload_d3dClear p
  | jmpl _ => exact keepsUpload_noRow q
  | jmp _ => exact keepsUpload_noRow q
  | call _ => exact keepsUpload_noRow q
  | ret => exact keepsUpload_noRow q
  | hdr _ _ _ => exact keepsUpload_noRow q
  | hdrNi _ _ _ => exact keepsUpload_noRow q
  | badLow11 _ => exact keepsUpload_noRow q
  | badB31 _ => exact keepsUpload_noRow q
  | badB3029 _ => exact keepsUpload_noRow q
  | badB16 _ => exact keepsUpload_noRow q
  | badB17 _ => exact keepsUpload_noRow q
  | data p => exact keepsUpload_noRow p
  | _ =>
    delta doRow
    dsimp only
    refine keepsUpload_store _ _ _ (fun _ => rfl) ?_
    exact fun _ _ hx => hx

/-- The meaning of every parameter row is the parser's bookkeeping around effects that keep the upload record. -/
theorem exec_parameter_keepsUpload {i : Instr} (hi : i.isParameter = true) :
    ∃ e : State → State, (∀ s, Effects s (e s)) ∧ KeepsUpload e ∧ ∀ s, exec i s = .next (paramWord (encodeWord i) e s) := by
  by_cases hd : ∃ p, i = .data p
  · obtain ⟨p, rfl⟩ := hd
    refine ⟨doDispatch p, effects_dispatch p, fun s h => ?_, fun _ => rfl⟩
    unfold doDispatch
    split
    · exact keepsUpload_doRow _ p s h
    · exact keepsUpload_noRow p s h
  · exact ⟨doRow i 0, effects_row i 0, keepsUpload_doRow i 0, exec_row i hi (fun p h => hd ⟨p, h⟩) 0⟩

/-! ## The upload invariant -/

/-- The invariant reads the channel records and the coming inputs, and nothing else. -/
theorem UploadInv.congr {s t : State} (h : UploadInv s) (hchans : t.chans = s.chans) (hin : t.inputs = s.inputs) :
    UploadInv t := by
  unfold UploadInv RestoresMeet Block.uploadsOk
  rw [hchans, hin]
  exact h

/-- It is kept where the current record stays consistent and no other record changes. -/
theorem UploadInv.of_current {s t : State} (h : UploadInv s) (hcur : t.cur = s.cur) (hin : t.inputs = s.inputs)
    (hother : ∀ c, c ≠ s.cur → t.chan c = s.chan c) (hch : CurrentUploadOk t) : UploadInv t := by
  obtain ⟨huploads, hrestore⟩ := h
  refine ⟨fun c => ?_, fun b hb => hrestore b (hin ▸ hb)⟩
  show (t.chan c).ifc.consistent
  by_cases hc : c = s.cur
  · rw [hc, ← hcur]
    exact hch.consistent
  · rw [hother c hc]
    exact huploads c

/-- So by effects of a dispatch that keep the current record consistent. -/
theorem Effects.uploadInv {s t : State} (he : Effects s t) (h : UploadInv s)
    (hkeeps : CurrentUploadOk s → CurrentUploadOk t) : UploadInv t := by
  have hu := he.untouched
  exact h.of_current hu.cur hu.inputs hu.chans (hkeeps ⟨h.1 s.cur⟩)

/-- And by a change of the current record that keeps it consistent. -/
theorem modCh_keeps_uploadInv {f : Channel → Channel} {s : State} (h : UploadInv s)
    (hf : ∀ x, x.ifc.consistent → (f x).ifc.consistent) : UploadInv (modCh f s) := by
  refine h.of_current rfl rfl (fun c hc => chan_modCh_other f s hc) ?_
  exact keepsUpload_modCh hf s ⟨h.1 s.cur⟩

/-- The parser's bookkeeping, and a dispatch failure, leave the upload records as the effects left them (R160, R161). -/
theorem paramWord_keeps_uploadInv {p : Word} {e : State → State} (he : ∀ s, Effects s (e s)) (hk : KeepsUpload e)
    {s : State} (h : UploadInv s) : UploadInv (paramWord p e s) := by
  have htail : UploadInv { s with failIn := s.failIn.tail } := h.congr rfl rfl
  have heffects : UploadInv (e { s with failIn := s.failIn.tail }) := (he _).uploadInv htail (hk _)
  cases hf : s.failNext with
  | no =>
    rw [paramWord_no hf]
    exact modCh_keeps_uploadInv heffects fun _ hx => hx
  | before =>
    rw [paramWord_before hf]
    exact htail.congr rfl rfl
  | after =>
    rw [paramWord_after hf]
    exact heffects.congr rfl rfl

/-- Every instruction keeps the invariant. -/
theorem exec_keeps_uploadInv {i : Instr} {s t : State} (h : UploadInv s) (hx : exec i s = .next t) : UploadInv t := by
  cases hi : i.isParameter with
  | false =>
    obtain ⟨f, g, es, hf, hifc⟩ := exec_control i hi s
    rw [hf] at hx
    cases hx
    have hrecord : UploadInv (modCh f s) := modCh_keeps_uploadInv h fun x hx => by rw [hifc]; exact hx
    exact hrecord.congr rfl rfl
  | true =>
    obtain ⟨e, he, hk, hf⟩ := exec_parameter_keepsUpload hi
    rw [hf] at hx
    cases hx
    exact paramWord_keeps_uploadInv he hk h

/-! ## Steps that run no instruction -/

/-- A host write touches no channel record and takes no input, wherever it lands. -/
theorem writeWord_keeps_uploadInv {s : State} (h : UploadInv s) (a : Nat) (v m : Word) : UploadInv (writeWord a v m s) := by
  unfold writeWord
  split
  case h_1 r _ =>
    rw [regWrite_frame]
    exact h.congr rfl rfl
  case h_2 d _ =>
    rw [objectWrite_frame]
    exact h.congr rfl rfl
  case h_3 c _ =>
    unfold putWrite
    split
    · exact h.congr rfl rfl
    · simp only
      rw [devWrite_frame]
      exact h.congr rfl rfl
  case h_4 => exact h
  case h_5 => exact h
  case h_6 => exact h

theorem makeCurrent_keeps_uploadInv {s : State} (h : UploadInv s) (c : ChanId) : UploadInv (makeCurrent c s) := by
  unfold makeCurrent
  split
  · exact h
  · rw [contextSwitch_frame]
    exact h.congr rfl rfl

theorem tickRound_keeps_uploadInv {s : State} (h : UploadInv s) (c : Nat) (ts : List Task) :
    UploadInv (tickRound c ts s) := by
  unfold tickRound
  split
  · simp only
    split
    · exact (makeCurrent_keeps_uploadInv h _).congr rfl rfl
    · exact h.congr rfl rfl
  · exact h.congr rfl rfl

/-- A reset zeroes every channel record (R400). -/
theorem uploadsOk_reset (dev : Memory) : (Block.reset dev).uploadsOk := by
  intro c
  simp only [Block.reset, Vector.getElem_replicate]
  exact ⟨rfl, rfl⟩

/-- Of all inputs only a reset and a restore bring in other channel records. -/
theorem takeInput_keeps_uploadInv {s : State} (h : UploadInv s) (i : Input)
    (hi : ∀ b, i = .restore b → b.uploadsOk) : UploadInv (takeInput i s) := by
  cases i with
  | read a size => exact h.congr rfl rfl
  | write a size data => exact h.congr rfl rfl
  | tick =>
    show UploadInv (startTick s)
    unfold startTick
    split <;> exact h.congr rfl rfl
  | extRaise x bits =>
    show UploadInv (extRaise x bits s)
    unfold extRaise
    rw [regSet_frame]
    exact h.congr rfl rfl
  | pendTake =>
    show UploadInv (pendTake s)
    unfold pendTake
    split <;> exact h.congr rfl rfl
  | reset => exact ⟨uploadsOk_reset s.dev, h.2⟩
  | snapshot => exact h.congr rfl rfl
  | restore b => exact ⟨hi b rfl, h.2⟩

theorem idleStep_keeps_uploadInv {s : State} (h : UploadInv s) : UploadInv (idleStep s) := by
  unfold idleStep
  split
  case h_1 => exact h
  case h_2 i is hin =>
    obtain ⟨huploads, hrestore⟩ := h
    have htail : UploadInv { s with inputs := is } :=
      ⟨huploads, fun b hb => hrestore b (hin ▸ List.mem_cons_of_mem i hb)⟩
    refine takeInput_keeps_uploadInv htail i fun b hb => hrestore b ?_
    rw [hin, hb]
    exact List.mem_cons_self

/-- Settles O57, along the cases of a step. -/
theorem stepKeepsUploadInv : Obligations.StepKeepsUploadInv := by
  intro s t h hstep
  obtain ⟨-, -, -, rfl⟩ | ⟨-, i, -, -, -, hx⟩ | ⟨a, v, m, ts, -, rfl⟩ | ⟨c, ts, -, rfl⟩ | ⟨-, rfl⟩ :=
    step_cases hstep
  · exact h.congr rfl rfl
  · have hfetch : UploadInv (fetchWord s).2 := by
      rw [fetchWord_frame]
      exact h.congr rfl rfl
    exact exec_keeps_uploadInv hfetch hx
  · have hrest : UploadInv { s with tasks := ts } := h.congr rfl rfl
    exact writeWord_keeps_uploadInv hrest a v m
  · exact tickRound_keeps_uploadInv h c ts
  · exact idleStep_keeps_uploadInv h

end Sys2Proof.Machine
end

section
/-! Methods of the raster classes that store their parameter (43_raster_classes.md R252 to R258, R262, R272, R273, R279 to
R285, R291 to R299): O25 and O26. -/
namespace Sys2Proof.Machine

open Sys2Proof

/-- The number of a fill method of a rectangle in the opcode table, as a word (R253, R258). -/
theorem mthdIdx5_word : ∀ i : BitVec 5, (mthdIdx5 0x100 i).setWidth 32 = (0x100 : Word) + 2 * i.setWidth 32
    ∧ (mthdIdx5 0x180 i).setWidth 32 = (0x180 : Word) + 2 * i.setWidth 32 := by decide

/-- The points of the fill rectangles lie beyond the default handle range. -/
theorem gdiNumber_default_beyond : ∀ i : BitVec 5, 0x080 ≤ (gdiNumber mthdsDefault.gdiUnclippedPoint i).toNat
    ∧ 0x080 ≤ (gdiNumber mthdsDefault.gdiClippedPoint0 i).toNat := by decide

/-- Settles O25: each method is a store under a number beyond the default handle range. -/
theorem gdiUploadAndBlitStore : Obligations.GdiUploadAndBlitStore := by
  intro p s hready n stores
  refine ⟨⟨rfl, ?colorA⟩, ⟨rfl, ?clip0⟩, ⟨rfl, ?clip1⟩, ⟨rfl, ?colorB⟩, ⟨rfl, ?ifcPoint⟩, ⟨rfl, ?pointIn⟩, ⟨rfl,
    ?pointOut⟩, fun i =>
    ⟨?decodesPoint, ?point, ?decodesRect, ?rect⟩⟩
  case colorA =>
    exact stores_plain hready (·.gdiColorA.setWidth 32) (fun q x => { x with gdi := { x.gdi with color := q } }) rfl
      rfl (fun _ _ => ⟨rfl, rfl, rfl⟩) (fun _ _ => rfl) (by decide)
  case clip0 =>
    exact stores_plain hready (·.gdiClipPoint0.setWidth 32) (fun q x => { x with gdi := { x.gdi with clip0 := q } }) rfl
      rfl (fun _ _ => ⟨rfl, rfl, rfl⟩) (fun _ _ => rfl) (by decide)
  case clip1 =>
    exact stores_plain hready (·.gdiClipPoint1.setWidth 32) (fun q x => { x with gdi := { x.gdi with clip1 := q } }) rfl
      rfl (fun _ _ => ⟨rfl, rfl, rfl⟩) (fun _ _ => rfl) (by decide)
  case colorB =>
    exact stores_plain hready (·.gdiColorB.setWidth 32) (fun q x => { x with gdi := { x.gdi with color := q } }) rfl
      rfl (fun _ _ => ⟨rfl, rfl, rfl⟩) (fun _ _ => rfl) (by decide)
  case ifcPoint =>
    exact stores_plain hready (·.ifcPoint.setWidth 32) (fun q x => { x with ifc := { x.ifc with point := q } }) rfl
      rfl (fun _ _ => ⟨rfl, rfl, rfl⟩) (fun _ _ => rfl) (by decide)
  case pointIn =>
    exact stores_plain hready (·.blitPointIn.setWidth 32) (fun q x => { x with blit := { x.blit with pointIn := q } }) rfl
      rfl (fun _ _ => ⟨rfl, rfl, rfl⟩) (fun _ _ => rfl) (by decide)
  case pointOut =>
    exact stores_plain hready (·.blitPointOut.setWidth 32) (fun q x => { x with blit := { x.blit with pointOut := q } }) rfl
      rfl (fun _ _ => ⟨rfl, rfl, rfl⟩) (fun _ _ => rfl) (by decide)
  case decodesPoint =>
    rw [← (mthdIdx5_word i).1]
    exact decodeParam_gdiRectRow (build := .gdiUnclippedPoint) (by simp [gdiRows]) (by decide) i p
  case point =>
    exact stores_plain hready (fun n => gdiNumber n.gdiUnclippedPoint i)
      (fun q x => { x with gdi := { x.gdi with point := q } }) rfl
      rfl (fun _ _ => ⟨rfl, rfl, rfl⟩) (fun _ _ => rfl) (gdiNumber_default_beyond i).1
  case decodesRect =>
    rw [← (mthdIdx5_word i).2]
    exact decodeParam_gdiRectRow (build := .gdiClippedPoint0) (by simp [gdiRows]) (by decide) i p
  case rect =>
    exact stores_plain hready (fun n => gdiNumber n.gdiClippedPoint0 i)
      (fun q x => { x with gdi := { x.gdi with rect0 := q } }) rfl
      rfl (fun _ _ => ⟨rfl, rfl, rfl⟩) (fun _ _ => rfl) (gdiNumber_default_beyond i).2

/-- Settles O26: each method is a store under a number beyond the default handle range. -/
theorem copyAndClearStore : Obligations.CopyAndClearStore := by
  intro p s hready n stores
  refine ⟨⟨rfl, ?ofsIn⟩, ⟨rfl, ?ofsOut⟩, ⟨rfl, ?pitchIn⟩, ⟨rfl, ?pitchOut⟩, ⟨rfl, ?lineLen⟩, ⟨rfl, ?lineCount⟩, ⟨rfl,
    ?copyFormat⟩, ⟨rfl, ?format⟩, ⟨rfl, ?pitch⟩, ⟨rfl, ?colorOfs⟩, ⟨rfl, ?zetaOfs⟩, ⟨rfl, ?zclear⟩, ⟨rfl, ?cclear⟩,
    ⟨rfl, ?rectH⟩, ⟨rfl, ?rectV⟩⟩
  case ofsIn =>
    exact stores_plain hready (·.m2mfOfsIn.setWidth 32) (fun q x => { x with m2mf := { x.m2mf with ofsIn := q } }) rfl
      rfl (fun _ _ => ⟨rfl, rfl, rfl⟩) (fun _ _ => rfl) (by decide)
  case ofsOut =>
    exact stores_plain hready (·.m2mfOfsOut.setWidth 32) (fun q x => { x with m2mf := { x.m2mf with ofsOut := q } }) rfl
      rfl (fun _ _ => ⟨rfl, rfl, rfl⟩) (fun _ _ => rfl) (by decide)
  case pitchIn =>
    exact stores_plain hready (·.m2mfPitchIn.setWidth 32) (fun q x => { x with m2mf := { x.m2mf with pitchIn := q } }) rfl
      rfl (fun _ _ => ⟨rfl, rfl, rfl⟩) (fun _ _ => rfl) (by decide)
  case pitchOut =>
    exact stores_plain hready (·.m2mfPitchOut.setWidth 32) (fun q x => { x with m2mf := { x.m2mf with pitchOut := q } }) rfl
      rfl (fun _ _ => ⟨rfl, rfl, rfl⟩) (fun _ _ => rfl) (by decide)
  case lineLen =>
    exact stores_plain hready (·.m2mfLineLen.setWidth 32) (fun q x => { x with m2mf := { x.m2mf with lineLen := q } }) rfl
      rfl (fun _ _ => ⟨rfl, rfl, rfl⟩) (fun _ _ => rfl) (by decide)
  case lineCount =>
    exact stores_plain hready (·.m2mfLineCount.setWidth 32) (fun q x => { x with m2mf := { x.m2mf with lineCount := q } }) rfl
      rfl (fun _ _ => ⟨rfl, rfl, rfl⟩) (fun _ _ => rfl) (by decide)
  case copyFormat =>
    exact stores_plain hready (·.m2mfFormat.setWidth 32) (fun q x => { x with m2mf := { x.m2mf with format := q } }) rfl
      rfl (fun _ _ => ⟨rfl, rfl, rfl⟩) (fun _ _ => rfl) (by decide)
  case format =>
    exact stores_plain hready (·.d3dSurfaceFormat.setWidth 32) (fun q x => { x with d3d := { x.d3d with format := q } }) rfl
      rfl (fun _ _ => ⟨rfl, rfl, rfl⟩) (fun _ _ => rfl) (by decide)
  case pitch =>
    exact stores_plain hready (·.d3dSurfacePitch.setWidth 32) (fun q x => { x with d3d := { x.d3d with pitch := q } }) rfl
      rfl (fun _ _ => ⟨rfl, rfl, rfl⟩) (fun _ _ => rfl) (by decide)
  case colorOfs =>
    exact stores_plain hready (·.d3dColorOffset.setWidth 32) (fun q x => { x with d3d := { x.d3d with colorOfs := q } }) rfl
      rfl (fun _ _ => ⟨rfl, rfl, rfl⟩) (fun _ _ => rfl) (by decide)
  case zetaOfs =>
    exact stores_plain hready (·.d3dZetaOffset.setWidth 32) (fun q x => { x with d3d := { x.d3d with zetaOfs := q } }) rfl
      rfl (fun _ _ => ⟨rfl, rfl, rfl⟩) (fun _ _ => rfl) (by decide)
  case zclear =>
    exact stores_plain hready (·.d3dZclearValue.setWidth 32) (fun q x => { x with d3d := { x.d3d with zclear := q } }) rfl
      rfl (fun _ _ => ⟨rfl, rfl, rfl⟩) (fun _ _ => rfl) (by decide)
  case cclear =>
    exact stores_plain hready (·.d3dCclearValue.setWidth 32) (fun q x => { x with d3d := { x.d3d with cclear := q } }) rfl
      rfl (fun _ _ => ⟨rfl, rfl, rfl⟩) (fun _ _ => rfl) (by decide)
  case rectH =>
    exact stores_plain hready (·.d3dClearRectH.setWidth 32) (fun q x => { x with d3d := { x.d3d with rectH := q } }) rfl
      rfl (fun _ _ => ⟨rfl, rfl, rfl⟩) (fun _ _ => rfl) (by decide)
  case rectV =>
    exact stores_plain hready (·.d3dClearRectV.setWidth 32) (fun q x => { x with d3d := { x.d3d with rectV := q } }) rfl
      rfl (fun _ _ => ⟨rfl, rfl, rfl⟩) (fun _ _ => rfl) (by decide)

end Sys2Proof.Machine
end

section
/-! The image upload's state machine (43_raster_classes.md R263 to R269): O30 and O31. -/
namespace Sys2Proof.Machine

open Sys2Proof

theorem modIfc_congr {f g : IfcState → IfcState} {s : State} (h : f s.ch.ifc = g s.ch.ifc) : modIfc f s = modIfc g s :=
  modCh_congr (congrArg (fun y => { s.ch with ifc := y }) h)

/-! ## Class methods that change the upload record -/

/-- A class method whose handler changes the upload record of the current channel. -/
theorem exec_modIfc {s t : State} (h : Ready s) {i : Instr} {m p : Word} {e : State → State}
    {handler : Word → State → State} {f : IfcState → IfcState} (hi : exec i s = .next (paramWord p e s))
    (hd : e { s with failIn := s.failIn.tail } = classMethod m p handler { s with failIn := s.failIn.tail })
    (he : handler (paramValue s m p) { resolved s m p with failIn := s.failIn.tail }
      = modIfc f { t with failIn := s.failIn.tail })
    (hch : t.ch = s.ch) (hfail : t.failIn = s.failIn) :
    exec i s = .next (afterParam (fun x => { x with ifc := f x.ifc }) t) :=
  hi.trans (congrArg Host.Outcome.next
    (paramWord_classMethod h hd (f := fun x => { x with ifc := f x.ifc }) (fun _ => ⟨rfl, rfl, rfl⟩) (fun _ => rfl) he
      hch hfail))

/-! ## The sizes -/

/-- What IFC_SIZE_OUT makes of the upload record (R263). -/
def sizedOut (s : State) (q : Word) (y : IfcState) : IfcState :=
  let k := s.cfg.packings
  if s.cfg.ifcFastpathSize = some q then
    { y with sizeOut := q, buf := [], need := 0, state := .fastPath,
             fastOff := dstOff s (k.ifcPoint.fst y.point) (k.ifcPoint.snd y.point) }
  else { y with sizeOut := q, buf := [], need := 0, state := .configuring }

theorem setSizeOut_eq (q : Word) (s : State) : setSizeOut q s = modIfc (sizedOut s q) s := by
  unfold setSizeOut
  simp only
  split
  case isTrue h => exact modIfc_congr (if_pos h).symm
  case isFalse h => exact modIfc_congr (if_neg h).symm

/-- What IFC_SIZE_IN makes of the upload record outside the fast path, where the image has `n` words (R264, R266). -/
def sizedIn (n : Nat) (q : Word) (y : IfcState) : IfcState :=
  { y with sizeIn := q, buf := [], need := n, state := if n = 0 then .configuring else .streaming }

theorem setSizeIn_fastPath {s : State} (h : s.ch.ifc.state = .fastPath) (q : Word) :
    setSizeIn q s = modIfc (fun y => { y with sizeIn := q }) s := if_pos h

theorem setSizeIn_buffered {s : State} (h : s.ch.ifc.state ≠ .fastPath) (q : Word) :
    setSizeIn q s
      = modIfc (sizedIn (bufWords (s.cfg.packings.ifcSizeIn.fst q) (s.cfg.packings.ifcSizeIn.snd q) s.bppNow) q) s := by
  unfold setSizeIn
  simp only [if_neg h]
  split
  case isTrue hpos =>
    refine modIfc_congr ?_
    rw [sizedIn, if_neg (by omega)]
    rfl
  case isFalse hzero =>
    have hnone : bufWords (s.cfg.packings.ifcSizeIn.fst q) (s.cfg.packings.ifcSizeIn.snd q) s.bppNow = 0 := by omega
    refine modIfc_congr ?_
    rw [sizedIn, hnone]
    rfl

/-- Settles O30: each size is one change of the upload record. -/
theorem uploadSizes : Obligations.UploadSizes := by
  intro p s hready k a b v w
  refine ⟨?sizeOut, fun hfast => ?fastPath, fun hother => ?buffered⟩
  case sizeOut =>
    refine exec_modIfc hready (m := a) (t := resolved s a p) (f := sizedOut s v) rfl rfl ?_ rfl rfl
    exact setSizeOut_eq v { resolved s a p with failIn := s.failIn.tail }
  case fastPath =>
    refine exec_modIfc hready (m := b) (t := resolved s b p) (f := fun y => { y with sizeIn := w }) rfl rfl ?_ rfl rfl
    exact setSizeIn_fastPath (s := { resolved s b p with failIn := s.failIn.tail }) hfast w
  case buffered =>
    refine exec_modIfc hready (m := b) (t := resolved s b p) (f := sizedIn _ w) rfl rfl ?_ rfl rfl
    exact setSizeIn_buffered (s := { resolved s b p with failIn := s.failIn.tail }) hother w

/-! ## Data words that do not complete an image -/

theorem imageData_configuring {s : State} (h : s.ch.ifc.state = .configuring) (m q : Word) :
    imageData m q s = logEvent (.ev11 s.cur m q) s := by simp only [imageData, h]

theorem imageData_appends {s : State} (h : s.ch.ifc.state = .streaming) (hmore : s.ch.ifc.buf.length + 1 ≠ s.ch.ifc.need)
    (m q : Word) : imageData m q s = modIfc (fun y => { y with buf := y.buf ++ [q] }) s := by
  have hnotFull : ¬ (modIfc (fun y => { y with buf := y.buf ++ [q] }) s).ch.ifc.buf.length
      = (modIfc (fun y => { y with buf := y.buf ++ [q] }) s).ch.ifc.need := by
    rw [modIfc, ch_modCh, List.length_append]
    exact hmore
  simp only [imageData, h, if_neg hnotFull]

theorem imageData_fastPath {s : State} (h : s.ch.ifc.state = .fastPath) (m q : Word) :
    imageData m q s = modIfc (fun y => { y with fastOff := y.fastOff + 4 })
      (dmaWrite s.ch.surf.dstObj s.ch.ifc.fastOff 4 q s) := by simp only [imageData, h]

/-- The three rows of IFC_DATA mean the same (R265). -/
theorem exec_ifcData {i : Instr} {m : Mthd} {p : Word}
    (h : i ∈ [Instr.ifcData100 m p, .ifcData200 m p, .ifcData400 m p]) (s : State) :
    exec i s = .next (paramWord p (doIfcData m p) s) := by
  simp only [List.mem_cons, List.not_mem_nil, or_false] at h
  obtain rfl | rfl | rfl := h
  · rfl
  · rfl
  · rfl

/-- What the store of a fast path does, by where its address lies (R86, R268). -/
theorem dmaWrite_word_cases {s : State} {obj off : Word} (q : Word) :
    let a := dmaXlate s obj off
    let t := dmaWrite obj off 4 q s
    (s.dev.wf = true → a.1 = .dev → inVram s.cfg a.2 4 = true → t.sysBus = s.sysBus
        ∧ (∀ k, k < 4 → getByte t.dev (a.2.toNat + k) = byteOf q.toNat k)
        ∧ ∀ b, (b < a.2.toNat ∨ a.2.toNat + 4 ≤ b) → getByte t.dev b = getByte s.dev b)
      ∧ (a.1 = .dev → inVram s.cfg a.2 4 = false → t.sysBus = s.sysBus ∧ t.dev = s.dev)
      ∧ (a.1 = .sys → t.dev = s.dev ∧ t.sysBus = s.sysBus ++ [.write a.2 4 q]) := by
  intro a t
  refine ⟨fun hwf hdev hin => ?inside, fun hdev hout => ?outside, fun hsys => ?system⟩
  case inside =>
    have ht : t = devWrite a.2 4 q s := dmaWrite_dev_target hdev 4 q
    rw [ht, devWrite_sysBus]
    exact ⟨rfl, fun k hk => getByte_devWrite_same hwf ((inVram_iff _ _ _).1 hin) hk,
      fun b hb => getByte_devWrite_other hwf hb⟩
  case outside =>
    have ht : t = s := by
      refine (dmaWrite_dev_target hdev 4 q).trans (devWrite_out ?_)
      exact Nat.lt_of_not_le fun hle => Bool.false_ne_true (hout.symm.trans ((inVram_iff _ _ _).2 hle))
    rw [ht]
    exact ⟨rfl, rfl⟩
  case system =>
    have ht : t = sysWrite a.2 4 q s := dmaWrite_sys_target hsys 4 q
    rw [ht, sysWrite_sysBus, and_byteMask_four]
    exact ⟨rfl, rfl⟩

/-- Settles O31, by the state of the upload. -/
theorem dataWordsOfAnUpload : Obligations.DataWordsOfAnUpload := by
  intro m p s hready i hi hwf y d q r
  have hexec := exec_ifcData hi s
  let s1 : State := { r with failIn := s.failIn.tail }
  refine ⟨fun hconf => ?configuring, fun hstream hmore => ?streaming, fun hfast => ?fastPath⟩
  case configuring =>
    let t : State := { r with events := r.events ++ [.ev11 s.cur d q] }
    have hlog : imageData d q s1 = modCh id { t with failIn := s.failIn.tail } :=
      (imageData_configuring (s := s1) hconf d q).trans (modCh_id _).symm
    exact hexec.trans (congrArg Host.Outcome.next
      (paramWord_classMethod hready (m := d) (handler := imageData d) rfl keepsCounters_id (fun _ => rfl) (t := t) hlog
        rfl rfl))
  case streaming =>
    refine exec_modIfc hready (m := d) (t := r) (f := fun y => { y with buf := y.buf ++ [q] }) hexec rfl ?_ rfl rfl
    exact imageData_appends (s := s1) hstream hmore d q
  case fastPath =>
    intro a
    let u : State := dmaWrite s.ch.surf.dstObj y.fastOff 4 q s1
    refine ⟨afterParam (fun x => { x with ifc := { x.ifc with fastOff := x.ifc.fastOff + 4 } })
      { r with dev := u.dev, sysBus := u.sysBus }, ?_, rfl, dmaWrite_word_cases (s := s1) q⟩
    refine exec_modIfc hready (m := d) (f := fun y => { y with fastOff := y.fastOff + 4 }) hexec rfl ?_ rfl rfl
    exact (imageData_fastPath (s := s1) hfast d q).trans (congrArg _ (dmaWrite_frame ..))

end Sys2Proof.Machine
end

section
/-! The executors of the raster classes as runs of stores (42_state_classes.md R230, R231, 43_raster_classes.md R260, R267,
R275, R287, R300): what one round of each does, and the row that runs it. -/
namespace Sys2Proof.Machine

open Sys2Proof

/-! ## Sizes of elements -/

theorem bytesIn_le_four (t : List (Word × ElemSize)) (f : Word) : bytesIn t f ≤ 4 := by
  unfold bytesIn
  split
  case h_1 e _ => cases e.2 <;> decide
  case h_2 => exact Nat.zero_le 4

/-- No pixel has more than four bytes (R230). -/
theorem bppNow_le_four (s : State) : s.bppNow ≤ 4 := by
  rw [State.bppNow, bpp]
  split
  · decide
  · exact bytesIn_le_four _ _

/-! ## States that an executor does not tell apart -/

/-- `u` shows an executor the records and parameters of `s`. -/
structure SameView (s u : State) : Prop where
  ch : u.ch = s.ch
  cfg : u.cfg = s.cfg

theorem SameButStores.sameView {s u : State} (h : SameButStores s u) : SameView s u := by
  rw [h]
  exact ⟨rfl, rfl⟩

theorem SameBut.sameButStores {s u : State} {obj : Word} (h : SameBut s obj u) : SameButStores s u := by
  obtain ⟨hframe, -, -⟩ := h
  rw [hframe]
  rfl

theorem SameBut.sameView {s u : State} {obj : Word} (h : SameBut s obj u) : SameView s u := h.sameButStores.sameView

theorem SameView.dmaRead {s u : State} (h : SameView s u) (obj off : Word) (n : Nat) :
    SameView s (dmaRead obj off n u).2 := by
  rw [dmaRead_frame]
  exact ⟨h.ch, h.cfg⟩

theorem SameView.bppNow {s u : State} (h : SameView s u) : u.bppNow = s.bppNow := by
  rw [State.bppNow, h.ch, h.cfg]
  rfl

/-! ## One pixel -/

/-- A pixel of the destination (R231) as an item. -/
def dstPixel (s : State) (x y : Nat) : Item := ⟨s.ch.surf.dstObj, dstOff s x y, s.bppNow⟩

/-- A pixel of the source (R231) as an item. -/
def srcPixel (s : State) (x y : Nat) : Item := ⟨s.ch.surf.srcObj, srcOff s x y, s.bppNow⟩

/-- The store of a value in an item. -/
def storeItem (c : Item) (v : Word) (u : State) : State := dmaWrite c.obj c.off c.size v u

theorem putPixel_eq {s u : State} (h : SameView s u) (x y : Nat) (v : Word) :
    putPixel x y v u = storeItem (dstPixel s x y) v u := by
  have hoff : dstOff u x y = dstOff s x y := by simp only [dstOff, State.dstPitch, h.ch, h.cfg, h.bppNow]
  rw [putPixel, h.bppNow, h.ch, hoff, dmaWrite_byteMask _ _ (bppNow_le_four s)]
  rfl

theorem getPixel_eq {s u : State} (h : SameView s u) (x y : Nat) :
    getPixel x y u = dmaRead (srcPixel s x y).obj (srcPixel s x y).off (srcPixel s x y).size u := by
  have hoff : srcOff u x y = srcOff s x y := by simp only [srcOff, State.srcPitch, h.ch, h.cfg, h.bppNow]
  rw [getPixel, h.bppNow, h.ch, hoff]
  rfl

/-! ## One round of each executor -/

/-- The value that a copy reads from one item is stored in another (R275, R287). -/
def moveItem (c d : Item) (u : State) : State :=
  storeItem d (dmaRead c.obj c.off c.size u).1 (dmaRead c.obj c.off c.size u).2

theorem copyPixel_eq {s u : State} (h : SameView s u) (sx sy dx dy : Nat) :
    copyPixel sx sy dx dy u = moveItem (srcPixel s sx sy) (dstPixel s dx dy) u := by
  rw [copyPixel, getPixel_eq h, putPixel_eq (h.dmaRead _ _ _)]
  rfl

/-- The pixels that a fill paints (R260). -/
def fillSelects (s : State) (clipped : Bool) (x0 y0 i j : Nat) : Bool :=
  !clipped || insideClip s.cfg.packings s.ch x0 y0 i j

/-- One round of a fill. -/
def fillRound (x0 y0 : Nat) (clipped : Bool) (j i : Nat) (u : State) : State :=
  if fillSelects u clipped x0 y0 i j = true then putPixel (x0 + i) (y0 + j) (fillColor u.cfg u.ch) u else u

theorem fillPixels_eq (x0 y0 w h : Nat) (clipped : Bool) (s : State) :
    fillPixels x0 y0 w h clipped s = loop h (fun j => loop w (fillRound x0 y0 clipped j)) s := rfl

theorem fillRound_eq {s u : State} (h : SameView s u) (x0 y0 : Nat) (clipped : Bool) (j i : Nat) :
    fillRound x0 y0 clipped j i u
      = if fillSelects s clipped x0 y0 i j = true then storeItem (dstPixel s (x0 + i) (y0 + j)) (fillColor s.cfg s.ch) u
        else u := by
  have hselects : fillSelects u clipped x0 y0 i j = fillSelects s clipped x0 y0 i j := by
    rw [fillSelects, fillSelects, h.ch, h.cfg]
  rw [fillRound, hselects, putPixel_eq h, h.ch, h.cfg]

/-- One round of the drawing of an image. -/
def uploadRound (dx dy sw j i : Nat) (u : State) : State :=
  putPixel (dx + i) (dy + j) (imagePixel u.ch.ifc.buf u.bppNow (j * sw + i)) u

theorem uploadPixels_eq (dx dy dw dh sw : Nat) (s : State) :
    uploadPixels dx dy dw dh sw s = loop dh (fun j => loop dw (uploadRound dx dy sw j)) s := rfl

theorem uploadRound_eq {s u : State} (h : SameView s u) (dx dy sw j i : Nat) :
    uploadRound dx dy sw j i u
      = storeItem (dstPixel s (dx + i) (dy + j)) (imagePixel s.ch.ifc.buf s.bppNow (j * sw + i)) u := by
  rw [uploadRound, putPixel_eq h, h.ch, h.bppNow]

/-- One round of a block copy. -/
def copyRound (sx sy dx dy w h jj ii : Nat) (u : State) : State :=
  let i := scanPos (decide (dx > sx)) w ii
  let j := scanPos (decide (dy > sy)) h jj
  copyPixel (sx + i) (sy + j) (dx + i) (dy + j) u

theorem copyPixels_eq (sx sy dx dy w h : Nat) (s : State) :
    copyPixels sx sy dx dy w h s = loop h (fun j => loop w (copyRound sx sy dx dy w h j)) s := rfl

/-- Word `k` of line `l` of the source of a memory copy (R287). -/
def srcWord (y : M2mfState) (l k : Nat) : Item := ⟨y.srcObj, offset y.ofsIn (l * y.pitchIn.toNat + k * 4), 4⟩

/-- Word `k` of line `l` of its destination. -/
def dstWord (y : M2mfState) (l k : Nat) : Item := ⟨y.dstObj, offset y.ofsOut (l * y.pitchOut.toNat + k * 4), 4⟩

/-- The offset of a word of a line, computed on words, is that computed on numbers. -/
theorem lineOffset_eq (base pitch : Word) (l k : Nat) :
    base + BitVec.ofNat 32 l * pitch + 4 * BitVec.ofNat 32 k = offset base (l * pitch.toNat + k * 4) := by
  rw [offset, BitVec.ofNat_add, BitVec.ofNat_mul, BitVec.ofNat_mul, BitVec.ofNat_toNat, BitVec.setWidth_eq,
    BitVec.add_assoc, BitVec.mul_comm 4]
  rfl

theorem copyWord_eq {s u : State} (h : SameView s u) (l k : Nat) :
    copyWord l k u = moveItem (srcWord s.ch.m2mf l k) (dstWord s.ch.m2mf l k) u := by
  simp only [copyWord, lineOffset_eq, h.ch]
  rfl

/-- An element of a plane of a clear (R300). -/
def planeElem (obj base : Word) (pitch b x y : Nat) : Item := ⟨obj, offset base (y * pitch + x * b), b⟩

/-- One round of the clear of a plane. -/
def clearRound (obj base : Word) (pitch b x0 y0 : Nat) (v : Word) (j i : Nat) (u : State) : State :=
  storeItem (planeElem obj base pitch b (x0 + i) (y0 + j)) (v &&& byteMask b) u

theorem clearRound_eq {b : Nat} (hb : b ≤ 4) (obj base : Word) (pitch x0 y0 : Nat) (v : Word) (j i : Nat) (u : State) :
    clearRound obj base pitch b x0 y0 v j i u = storeItem (planeElem obj base pitch b (x0 + i) (y0 + j)) v u :=
  dmaWrite_byteMask _ _ hb v u

/-! ## The executors that read nothing as one run of stores -/

theorem sameButStores_storeItem {s u : State} (h : SameButStores s u) (c : Item) (v : Word) :
    SameButStores s (storeItem c v u) := h.trans (sameButStores_dmaWrite _ _ _ _ u)

/-- The stores of a fill (R260). -/
def fillStores (s : State) (x0 y0 w h : Nat) (clipped : Bool) : List (Item × Word) :=
  grid w h (fun i j => if fillSelects s clipped x0 y0 i j = true then
    [(dstPixel s (x0 + i) (y0 + j), fillColor s.cfg s.ch)] else [])

theorem fillPixels_eq_storeAll (x0 y0 w h : Nat) (clipped : Bool) (s : State) :
    fillPixels x0 y0 w h clipped s = storeAll (fillStores s x0 y0 w h clipped) s := by
  refine (loop_grid (G := SameButStores s) (fun j i u _ _ hu => ⟨?_, hu.trans (sameButStores_storeAll _ u)⟩)
    (sameButStores_refl s)).1
  refine (fillRound_eq hu.sameView x0 y0 clipped j i).trans ?_
  split
  · rfl
  · rfl

/-- The stores of the drawing of an image (R267). -/
def uploadStores (s : State) (dx dy dw dh sw : Nat) : List (Item × Word) :=
  grid dw dh (fun i j => [(dstPixel s (dx + i) (dy + j), imagePixel s.ch.ifc.buf s.bppNow (j * sw + i))])

theorem uploadPixels_eq_storeAll (dx dy dw dh sw : Nat) (s : State) :
    uploadPixels dx dy dw dh sw s = storeAll (uploadStores s dx dy dw dh sw) s := by
  refine (loop_grid (G := SameButStores s) (fun j i u _ _ hu => ⟨?_, hu.trans (sameButStores_storeAll _ u)⟩)
    (sameButStores_refl s)).1
  exact uploadRound_eq hu.sameView dx dy sw j i

/-- The stores of the clear of a plane (R300). -/
def clearStores (obj base : Word) (pitch b x0 y0 w h : Nat) (v : Word) : List (Item × Word) :=
  grid w h (fun i j => [(planeElem obj base pitch b (x0 + i) (y0 + j), v)])

theorem clearPlane_eq_storeAll {b : Nat} (hb : b ≤ 4) (obj base : Word) (pitch x0 y0 w h : Nat) (v : Word) (s : State) :
    clearPlane obj base pitch b x0 y0 w h v s = storeAll (clearStores obj base pitch b x0 y0 w h v) s :=
  (loop_grid (G := fun _ => True) (fun j i u _ _ _ => ⟨clearRound_eq hb obj base pitch x0 y0 v j i u, trivial⟩)
    trivial).1

end Sys2Proof.Machine
end

section
/-! The rows that run an executor (43_raster_classes.md R254, R259, R265, R274, R286, R297): what each leaves, by what its
executor leaves in memory. -/
namespace Sys2Proof.Machine

open Sys2Proof

/-! ## Executors change memory only -/

/-- A loop whose rounds keep `G` keeps it. -/
theorem loop_keeps {f : Nat → State → State} {G : State → Prop} {n : Nat} (hf : ∀ i u, i < n → G u → G (f i u))
    {s : State} (hs : G s) : G (loop n f s) := (loop_congr n hs fun i u hi hu => ⟨rfl, hf i u hi hu⟩).2

theorem sameButStores_moveItem {s u : State} (h : SameButStores s u) (c d : Item) : SameButStores s (moveItem c d u) :=
  (h.trans (sameButStores_dmaRead _ _ _ u)).trans (sameButStores_dmaWrite _ _ _ _ _)

theorem sameButStores_fillPixels (x0 y0 w h : Nat) (clipped : Bool) (s : State) :
    SameButStores s (fillPixels x0 y0 w h clipped s) := by
  rw [fillPixels_eq_storeAll]
  exact sameButStores_storeAll _ s

theorem sameButStores_uploadPixels (dx dy dw dh sw : Nat) (s : State) :
    SameButStores s (uploadPixels dx dy dw dh sw s) := by
  rw [uploadPixels_eq_storeAll]
  exact sameButStores_storeAll _ s

theorem sameButStores_copyPixels (sx sy dx dy w h : Nat) (s : State) :
    SameButStores s (copyPixels sx sy dx dy w h s) := by
  refine loop_keeps (fun j u _ hu => loop_keeps (fun i v _ hv => ?_) hu) (sameButStores_refl s)
  simp only [copyPixel_eq hv.sameView]
  exact sameButStores_moveItem hv _ _

theorem sameButStores_copyLines (lines words : Nat) (s : State) : SameButStores s (copyLines lines words s) := by
  refine loop_keeps (fun l u _ hu => loop_keeps (fun k v _ hv => ?_) hu) (sameButStores_refl s)
  rw [copyWord_eq hv.sameView]
  exact sameButStores_moveItem hv _ _

/-- Pixel writes, which an unknown format leaves out (R230). -/
def drawn (e : State → State) (s : State) : State := if s.bppNow ≠ 0 then e s else s

theorem sameButStores_drawn {e : State → State} {s : State} (he : SameButStores s (e s)) : SameButStores s (drawn e s) := by
  unfold drawn
  split
  · exact he
  · exact sameButStores_refl s

/-- `s` with the memory, and the requests to system memory, that an executor left in `u`, and with its report. -/
def drew (s u : State) (records : List DirtyRec) : State :=
  { s with dev := u.dev, sysBus := u.sysBus, sysReads := u.sysReads, dirty := s.dirty ++ records }

theorem markDirty_eq_drew {s u : State} (h : SameButStores s u) (r : DirtyRec) : markDirty r u = drew s u [r] := by
  rw [h]
  rfl

/-- Where the executor wrote device memory only, that and its report are all that changes. -/
theorem drew_of_sameBut {r s u : State} {obj : Word} (h : SameBut s obj u) (hbus : r.sysBus = s.sysBus)
    (hreads : r.sysReads = s.sysReads) (records : List DirtyRec) :
    drew r u records = { r with dev := u.dev, dirty := r.dirty ++ records } := by
  have hu : u.sysBus = s.sysBus ∧ u.sysReads = s.sysReads := by
    rw [h.1]
    exact ⟨rfl, rfl⟩
  rw [drew, hu.1, hu.2, ← hbus, ← hreads]

/-! ## The rows -/

/-- The state in which the handler of a class method runs (R189): the parameter re-resolved, the oracle's answer taken. -/
def handed (s : State) (m p : Word) : State := { resolved s m p with failIn := s.failIn.tail }

/-- A class method whose handler runs an executor, and changes the current record by `f`. -/
theorem exec_drew {s u : State} (h : Ready s) {i : Instr} {m p : Word} {e : State → State}
    {handler : Word → State → State} {f : Channel → Channel} {records : List DirtyRec}
    (hi : exec i s = .next (paramWord p e s))
    (hd : e { s with failIn := s.failIn.tail } = classMethod m p handler { s with failIn := s.failIn.tail })
    (hf : KeepsCounters f) (hn : ∀ x, (f x).notifyArmed = x.notifyArmed)
    (he : handler (paramValue s m p) (handed s m p) = modCh f (drew (handed s m p) u records)) :
    exec i s = .next (afterParam f (drew (resolved s m p) u records)) :=
  hi.trans (congrArg Host.Outcome.next
    (paramWord_classMethod h hd hf hn (t := drew (resolved s m p) u records) he rfl rfl))

section
variable {s : State} (h : Ready s) (p : Word)
include h

theorem exec_gdiUnclippedSize (i : BitVec 5) :
    let m := gdiNumber s.cfg.mthds.gdiUnclippedSize i
    let k := s.cfg.packings
    let q := paramValue s m p
    let x0 := k.gdiUnclippedPoint.fst s.ch.gdi.point
    let y0 := k.gdiUnclippedPoint.snd s.ch.gdi.point
    let w := k.gdiUnclippedSize.fst q
    let hgt := k.gdiUnclippedSize.snd q
    exec (.gdiUnclippedSize i p) s = .next (afterParam id
      (drew (resolved s m p) (drawn (fillPixels x0 y0 w hgt false) (handed s m p)) [.rect x0 y0 w hgt])) := by
  intro m k q x0 y0 w hgt
  refine exec_drew h (m := m) rfl rfl keepsCounters_id (fun _ => rfl) ?_
  exact (markDirty_eq_drew (sameButStores_drawn (sameButStores_fillPixels x0 y0 w hgt false _)) _).trans (modCh_id _).symm

theorem exec_gdiClippedPoint1 (i : BitVec 5) :
    let m := gdiNumber s.cfg.mthds.gdiClippedPoint1 i
    let k := s.cfg.packings
    let q := paramValue s m p
    let x0 := k.gdiClippedPoint0.fst s.ch.gdi.rect0
    let y0 := k.gdiClippedPoint0.snd s.ch.gdi.rect0
    let w := k.gdiClippedPoint1.fst q - x0
    let hgt := k.gdiClippedPoint1.snd q - y0
    exec (.gdiClippedPoint1 i p) s = .next (afterParam id
      (drew (resolved s m p) (drawn (fillPixels x0 y0 w hgt true) (handed s m p)) [.rect x0 y0 w hgt])) := by
  intro m k q x0 y0 w hgt
  have hspan : ∀ a c : Nat, (if a ≥ c then a - c else 0) = a - c := fun a c => by split <;> omega
  refine exec_drew h (m := m) rfl rfl keepsCounters_id (fun _ => rfl) ?_
  refine Eq.trans ?_ ((markDirty_eq_drew (sameButStores_drawn (sameButStores_fillPixels x0 y0 w hgt true _)) _).trans
    (modCh_id _).symm)
  simp only [hspan]
  rfl

theorem exec_blitSize :
    let m : Word := s.cfg.mthds.blitSize.setWidth 32
    let k := s.cfg.packings
    let q := paramValue s m p
    let sx := k.blitPointIn.fst s.ch.blit.pointIn
    let sy := k.blitPointIn.snd s.ch.blit.pointIn
    let dx := k.blitPointOut.fst s.ch.blit.pointOut
    let dy := k.blitPointOut.snd s.ch.blit.pointOut
    let w := k.blitSize.fst q
    let hgt := k.blitSize.snd q
    exec (.blitSize p) s = .next (afterParam id
      (drew (resolved s m p) (drawn (copyPixels sx sy dx dy w hgt) (handed s m p)) [.rect dx dy w hgt])) := by
  intro m k q sx sy dx dy w hgt
  refine exec_drew h (m := m) rfl rfl keepsCounters_id (fun _ => rfl) ?_
  exact (markDirty_eq_drew (sameButStores_drawn (sameButStores_copyPixels sx sy dx dy w hgt _)) _).trans (modCh_id _).symm

end

/-! ## The last word of an upload -/

/-- The state in which the image is drawn: its last word is in the buffer (R265). -/
def imageComplete (q : Word) (s : State) : State := modIfc (fun y => { y with buf := y.buf ++ [q] }) s

theorem imageComplete_ch (q : Word) (s : State) :
    (imageComplete q s).ch = { s.ch with ifc := { s.ch.ifc with buf := s.ch.ifc.buf ++ [q] } } := ch_modCh _ s

theorem imageComplete_bppNow (q : Word) (s : State) : (imageComplete q s).bppNow = s.bppNow := by
  rw [State.bppNow, imageComplete_ch]
  rfl

/-- The executor of the upload, with what it reads of the record besides the buffer taken from `s`. -/
def drawImage (s : State) : State → State :=
  let k := s.cfg.packings
  let y := s.ch.ifc
  drawn (uploadPixels (k.ifcPoint.fst y.point) (k.ifcPoint.snd y.point) (k.ifcSizeOut.fst y.sizeOut)
    (k.ifcSizeOut.snd y.sizeOut) (k.ifcSizeIn.fst y.sizeIn))

theorem upload_imageComplete (q : Word) (s : State) :
    upload (imageComplete q s) = markDirty (uploadRect s) (drawImage s (imageComplete q s)) := by
  simp only [upload, imageComplete_ch]
  rfl

/-- The release of the buffer forgets that the last word was in it (R270). -/
theorem uploadDone_imageComplete (q : Word) (s u : State) (records : List DirtyRec) :
    modCh uploadDone (drew (imageComplete q s) u records) = modCh uploadDone (drew s u records) :=
  modCh_modCh (fun x => { x with ifc := { x.ifc with buf := x.ifc.buf ++ [q] } }) uploadDone (drew s u records)

theorem exec_lastImageData {s : State} (h : Ready s) {i : Instr} {m : Mthd} {p : Word}
    (hi : i ∈ [Instr.ifcData100 m p, .ifcData200 m p, .ifcData400 m p]) (hstate : s.ch.ifc.state = .streaming)
    (hlast : s.ch.ifc.buf.length + 1 = s.ch.ifc.need) :
    let d := s.cfg.mthds.ifcDataNumber m
    exec i s = .next (afterParam uploadDone (drew (resolved s d p)
      (drawImage s (imageComplete (paramValue s d p) (handed s d p))) [uploadRect s])) := by
  intro d
  let q := paramValue s d p
  let s1 := handed s d p
  have hdraw : SameButStores (imageComplete q s1) (drawImage s (imageComplete q s1)) :=
    sameButStores_drawn (sameButStores_uploadPixels _ _ _ _ _ _)
  have hdata : imageData d q s1 = modCh uploadDone (drew s1 (drawImage s (imageComplete q s1)) [uploadRect s]) := by
    calc imageData d q s1
      _ = modCh uploadDone (upload (imageComplete q s1)) := imageData_last (s := s1) hstate hlast d q
      _ = modCh uploadDone (markDirty (uploadRect s) (drawImage s (imageComplete q s1))) :=
        congrArg (modCh uploadDone) (upload_imageComplete q s1)
      _ = modCh uploadDone (drew (imageComplete q s1) (drawImage s (imageComplete q s1)) [uploadRect s]) :=
        congrArg (modCh uploadDone) (markDirty_eq_drew hdraw _)
      _ = _ := uploadDone_imageComplete q s1 _ _
  exact exec_drew h (m := d) (handler := imageData d) (exec_ifcData hi s) rfl (fun _ => ⟨rfl, rfl, rfl⟩) (fun _ => rfl)
    hdata

/-! ## The memory copy -/

/-- The record of the memory copy after its trigger (R286). -/
def notifyStored (q : Word) (x : Channel) : Channel := { x with m2mf := { x.m2mf with notify := q } }

/-- The copy of lines, with the extent taken from `s` (R287). -/
def copyImage (s : State) : State → State := copyLines s.ch.m2mf.lineCount.toNat (lineWords s.ch.m2mf)

/-- The report of the lines of a memory copy that left `u` (R288). -/
def lineRecords (s u : State) : List DirtyRec :=
  let y := s.ch.m2mf
  if displayMatches u y.dstObj = true then [.bytes y.ofsOut y.pitchOut (4 * lineWords y) y.lineCount.toNat] else []

theorem memCopy_eq (s : State) : memCopy s = drew s (copyImage s s) (lineRecords s (copyImage s s)) := by
  have hcopy : SameButStores s (copyImage s s) := sameButStores_copyLines _ _ s
  have hmem : memCopy s = if displayMatches (copyImage s s) s.ch.m2mf.dstObj = true then
      markDirty (.bytes s.ch.m2mf.ofsOut s.ch.m2mf.pitchOut (4 * lineWords s.ch.m2mf) s.ch.m2mf.lineCount.toNat)
        (copyImage s s) else copyImage s s := rfl
  rw [hmem]
  by_cases hshown : displayMatches (copyImage s s) s.ch.m2mf.dstObj = true
  · rw [lineRecords, if_pos hshown, if_pos hshown]
    exact markDirty_eq_drew hcopy _
  · rw [lineRecords, if_neg hshown, if_neg hshown, drew, List.append_nil]
    exact hcopy

theorem exec_m2mfBufferNotify {s : State} (h : Ready s) (p : Word) :
    let m : Word := s.cfg.mthds.m2mfBufferNotify.setWidth 32
    let q := paramValue s m p
    let u := copyImage s (modCh (notifyStored q) (handed s m p))
    exec (.m2mfBufferNotify p) s
      = .next (afterParam (notifyStored q) (drew (resolved s m p) u (lineRecords s u))) := by
  intro m q u
  refine exec_drew h (m := m) rfl rfl (f := notifyStored q) (fun _ => ⟨rfl, rfl, rfl⟩) (fun _ => rfl) ?_
  have hch : (modCh (notifyStored q) (handed s m p)).ch = notifyStored q s.ch := ch_modCh _ _
  have hu : copyImage (modCh (notifyStored q) (handed s m p)) = copyImage s := by
    rw [copyImage, hch]
    rfl
  have hrecords : lineRecords (modCh (notifyStored q) (handed s m p)) u = lineRecords s u := by
    rw [lineRecords, hch]
    rfl
  refine (memCopy_eq (modCh (notifyStored q) (handed s m p))).trans ?_
  rw [hu, hrecords]
  rfl

/-! ## The clear -/

/-- The first column of a clear (R298). -/
def clearLeft (s : State) : Nat := s.cfg.packings.d3dClearRectH.fst s.ch.d3d.rectH

/-- The first row of a clear (R299). -/
def clearTop (s : State) : Nat := s.cfg.packings.d3dClearRectV.fst s.ch.d3d.rectV

/-- The number of columns of a clear (R300). -/
def clearColumns (s : State) : Nat :=
  spanOf s.cfg.clear.span (clearLeft s) (s.cfg.packings.d3dClearRectH.snd s.ch.d3d.rectH)

/-- The number of rows of a clear (R300). -/
def clearRows (s : State) : Nat :=
  spanOf s.cfg.clear.span (clearTop s) (s.cfg.packings.d3dClearRectV.snd s.ch.d3d.rectV)

/-- The stores of a clear in its colour plane (R297, R300). -/
def colorStores (p : Word) (s : State) : List (Item × Word) :=
  let y := s.ch.d3d
  let cb := cbytes s.cfg y.format
  if p &&& s.cfg.clear.colorEnable ≠ 0 ∧ cb ≠ 0 then
    clearStores y.colorObj y.colorOfs (s.cfg.packings.d3dSurfacePitch.fst y.pitch) cb (clearLeft s) (clearTop s)
      (clearColumns s) (clearRows s) y.cclear
  else []

/-- The stores of a clear in its depth plane (R297, R300). -/
def zetaStores (p : Word) (s : State) : List (Item × Word) :=
  let y := s.ch.d3d
  let zb := zbytes s.cfg y.format
  if p &&& s.cfg.clear.zetaEnable ≠ 0 ∧ zb ≠ 0 then
    clearStores y.zetaObj y.zetaOfs (s.cfg.packings.d3dSurfacePitch.snd y.pitch) zb (clearLeft s) (clearTop s)
      (clearColumns s) (clearRows s) y.zclear
  else []

theorem clearPlane_if_eq_storeAll (c : Prop) [Decidable c] {b : Nat} (hb : b ≤ 4) (obj base : Word)
    (pitch x0 y0 w h : Nat) (v : Word) (s : State) :
    (if c then clearPlane obj base pitch b x0 y0 w h v s else s)
      = storeAll (if c then clearStores obj base pitch b x0 y0 w h v else []) s := by
  split
  · exact clearPlane_eq_storeAll hb ..
  · rfl

theorem clearSurfaces_eq (p : Word) (s : State) :
    clearSurfaces p s = drew s (storeAll (colorStores p s ++ zetaStores p s) s)
      [.rect (clearLeft s) (clearTop s) (clearColumns s) (clearRows s)] := by
  rw [← markDirty_eq_drew (sameButStores_storeAll _ s), storeAll_append]
  refine congrArg (markDirty _) ((clearPlane_if_eq_storeAll _ (bytesIn_le_four _ _) ..).trans ?_)
  exact congrArg (storeAll (zetaStores p s)) (clearPlane_if_eq_storeAll _ (bytesIn_le_four _ _) ..)

theorem exec_d3dClear {s : State} (h : Ready s) (p : Word) :
    let m : Word := s.cfg.mthds.d3dClear.setWidth 32
    let q := paramValue s m p
    exec (.d3dClear p) s = .next (afterParam id
      (drew (resolved s m p) (storeAll (colorStores q s ++ zetaStores q s) (handed s m p))
        [.rect (clearLeft s) (clearTop s) (clearColumns s) (clearRows s)])) := by
  intro m q
  refine exec_drew h (m := m) (handler := clearSurfaces) rfl rfl keepsCounters_id (fun _ => rfl) ?_
  exact (clearSurfaces_eq q (handed s m p)).trans (modCh_id _).symm

end Sys2Proof.Machine
end

section
/-! What the fills and the drawing of an image paint on a linear view of device memory (43_raster_classes.md R260, R267): O28
and O29. -/
namespace Sys2Proof

/-- The first entry of a format code gives its bytes (log entry 24). -/
theorem bytesIn_first {us vs : List (Word × ElemSize)} {e : Word × ElemSize} {f : Word} (he : e.1 = f)
    (hus : ∀ d ∈ us, d.1 ≠ f) : Machine.bytesIn (us ++ e :: vs) f = e.2.bytes := by
  have hnone : us.find? (fun d => d.1 == f) = none := List.find?_eq_none.2 fun d hd heq => hus d hd (eq_of_beq heq)
  have hfound : (us ++ e :: vs).find? (fun d => d.1 == f) = some e := by
    rw [List.find?_append, hnone, List.find?_cons_of_pos (by simp [he])]
    rfl
  rw [Machine.bytesIn, hfound]

/-- Bytes per pixel of the twelve codes that the default table and code 4 cover (R230). -/
theorem bppDefault_listed : ∀ f < 12, ∀ w : Word, w = BitVec.ofNat 32 f →
    (if w = 0x4 then 2 else Machine.bytesIn bppDefault w)
      = if w = 1 then 1 else if 2 ≤ w.toNat ∧ w.toNat ≤ 5 then 2 else if 6 ≤ w.toNat ∧ w.toNat ≤ 11 then 4 else 0 := by
  intro f hf w hw
  subst hw
  interval_cases f <;> decide

end Sys2Proof

namespace Sys2Proof.Machine

open Sys2Proof

/-- The pixel sizes of R230 as the default table has them. -/
theorem bpp_default {cfg : Config} (h : cfg.bpp = bppDefault) (f : Word) :
    bpp cfg f
      = if f = 1 then 1 else if 2 ≤ f.toNat ∧ f.toNat ≤ 5 then 2 else if 6 ≤ f.toNat ∧ f.toNat ≤ 11 then 4 else 0 := by
  rw [bpp, h]
  by_cases hf : f.toNat < 12
  · exact bppDefault_listed f.toNat hf f (by simp)
  · obtain ⟨h4, hunlisted⟩ := bppDefault_unlisted (f := f) (.inr (by omega))
    have h1 : f ≠ 1 := by rintro rfl; exact hf (by decide)
    rw [if_neg h4, bytesIn_unlisted hunlisted, if_neg h1, if_neg (by omega), if_neg (by omega)]

/-! ## Executors on device memory only -/

theorem Painted.congr {s t u : State} {obj ofs : Word} {pitch b x0 y0 w h : Nat} {sel : Nat → Nat → Bool}
    {v : Nat → Nat → Nat → Byte} (hp : Painted s u obj ofs pitch b x0 y0 w h sel v) (hdev : t.dev = u.dev) :
    Painted s t obj ofs pitch b x0 y0 w h sel v := by
  unfold Painted
  rw [hdev]
  exact hp

/-- A row whose executor wrote device memory only. -/
theorem exec_drew_dev {s s1 e u : State} {i : Instr} {m p obj : Word} {f : Channel → Channel} {records : List DirtyRec}
    (hx : exec i s = .next (afterParam f (drew (resolved s m p) e records))) (he : e = u) (hu : SameBut s1 obj u)
    (hbus : s.sysBus = s1.sysBus) (hreads : s.sysReads = s1.sysReads) :
    ∃ t, exec i s = .next t ∧ t.dev = u.dev
      ∧ t = afterParam f { resolved s m p with dev := t.dev, dirty := s.dirty ++ records } := by
  rw [he, drew_of_sameBut (r := resolved s m p) hu hbus hreads] at hx
  exact ⟨_, hx, rfl, rfl⟩

theorem drawn_pixels {s : State} (h : s.bppNow ≠ 0) (e : State → State) : drawn e s = e s := if_pos h

/-! ## Fills -/

/-- The clip test without integers (R260). -/
theorem insideClip_eq (k : Packings) (x : Channel) (x0 y0 i j : Nat) :
    insideClip k x x0 y0 i j
      = decide (k.gdiClipPoint0.fst x.gdi.clip0 ≤ x0 + i ∧ x0 + i < k.gdiClipPoint1.fst x.gdi.clip1
          ∧ k.gdiClipPoint0.snd x.gdi.clip0 ≤ y0 + j ∧ y0 + j < k.gdiClipPoint1.snd x.gdi.clip1) :=
  decide_eq_decide.2 (by omega)

theorem fillPixels_painted {s : State} (hwf : s.dev.wf = true) (hb : s.bppNow ≠ 0) {x0 y0 w h : Nat}
    (hok : DstOk s x0 y0 w h) (clipped : Bool) :
    let t := fillPixels x0 y0 w h clipped s
    SameBut s s.ch.surf.dstObj t
      ∧ DstPainted s t x0 y0 w h (fillSelects s clipped x0 y0) (fun _ _ k => byteOf (fillColor s.cfg s.ch).toNat k) :=
  plane_paint hwf (Nat.pos_of_ne_zero hb) hok fun j i _ _ _ hu => fillRound_eq hu.sameView x0 y0 clipped j i

/-- A fill row on a linear view. -/
theorem exec_fill {s : State} (hwf : s.dev.wf = true) (hb : s.bppNow ≠ 0) {i : Instr} {m p : Word} {x0 y0 w h : Nat}
    {clipped : Bool} {sel : Nat → Nat → Bool} (hsel : fillSelects s clipped x0 y0 = sel)
    (hx : exec i s = .next (afterParam id
      (drew (resolved s m p) (drawn (fillPixels x0 y0 w h clipped) (handed s m p)) [.rect x0 y0 w h])))
    (hok : DstOk s x0 y0 w h) :
    ∃ t, exec i s = .next t
      ∧ DstPainted s t x0 y0 w h sel (fun _ _ k => byteOf (fillColor s.cfg s.ch).toNat k)
      ∧ t = afterParam id { resolved s m p with dev := t.dev, dirty := s.dirty ++ [.rect x0 y0 w h] } := by
  obtain ⟨hsame, hpaint⟩ := fillPixels_painted (s := handed s m p) hwf hb hok clipped
  obtain ⟨t, ht, hdev, heq⟩ := exec_drew_dev hx (drawn_pixels (s := handed s m p) hb _) hsame rfl rfl
  exact ⟨t, ht, hsel ▸ Painted.congr hpaint hdev, heq⟩

/-- Settles O28: the tables and packings, then each fill as a run over its rectangle. -/
theorem fillsPaintTheirRectangle : Obligations.FillsPaintTheirRectangle := by
  refine ⟨fun t f => ⟨?first, bytesIn_unlisted⟩, fun s => ⟨?code4, ?listed, fun hdef => bpp_default hdef _⟩,
    fun v => ⟨rfl, rfl, rfl, rfl⟩, fun l => ⟨rfl, rfl, rfl⟩, ?fills⟩
  case first =>
    intro us e vs ht he hus
    rw [ht, bytesIn_first he hus]
    rfl
  case code4 => exact fun h4 => if_pos h4
  case listed => exact fun h4 => if_neg h4
  case fills =>
    intro i p s hready hwf hb g k color
    refine ⟨fun hok => ?unclipped, fun hok => ?clipped⟩
    case unclipped => exact exec_fill hwf hb rfl (exec_gdiUnclippedSize hready p i) hok
    case clipped =>
      refine exec_fill hwf hb ?_ (exec_gdiClippedPoint1 hready p i) hok
      funext i j
      exact insideClip_eq k s.ch _ _ i j

/-! ## The drawing of an image -/

/-- A byte of the little-endian number in some bytes of the buffer. -/
theorem byteOf_imageBytes (buf : List Word) {n k : Nat} (start : Nat) (hk : k < n) :
    byteOf (imageBytes buf start n) k = byteOf (buf.getD ((start + k) / 4) 0).toNat ((start + k) % 4) := by
  induction n generalizing start k with
  | zero => omega
  | succ n ih =>
    have hlt : imageByte buf start < 256 := Nat.mod_lt _ (by decide)
    rw [imageBytes]
    cases k with
    | zero =>
      apply BitVec.eq_of_toNat_eq
      rw [byteOf_toNat, byteOf_toNat, imageByte, BitVec.toNat_ushiftRight, Nat.shiftRight_eq_div_pow]
      simp
    | succ k =>
      have hdiv : (imageByte buf start + 256 * imageBytes buf (start + 1) n) / 256 = imageBytes buf (start + 1) n := by
        omega
      rw [← byteOf_succ, hdiv, ih (start + 1) (by omega), show start + 1 + k = start + (k + 1) by omega]

theorem imageBytes_lt (buf : List Word) (start n : Nat) : imageBytes buf start n < 2 ^ (8 * n) := by
  induction n generalizing start with
  | zero => simp [imageBytes]
  | succ n ih =>
    have := ih (start + 1)
    have hlt : imageByte buf start < 256 := Nat.mod_lt _ (by decide)
    rw [imageBytes, show 8 * (n + 1) = 8 + 8 * n by omega, Nat.pow_add]
    omega

/-- A byte of a pixel of the image (R267). -/
theorem byteOf_imagePixel (buf : List Word) {b k : Nat} (n : Nat) (hb : b ≤ 4) (hk : k < b) :
    byteOf (imagePixel buf b n).toNat k = byteOf (buf.getD ((n * b + k) / 4) 0).toNat ((n * b + k) % 4) := by
  have hlt : imageBytes buf (n * b) b < 2 ^ 32 :=
    (imageBytes_lt buf (n * b) b).trans_le (Nat.pow_le_pow_right (by decide) (by omega))
  rw [imagePixel, BitVec.toNat_ofNat, Nat.mod_eq_of_lt hlt, byteOf_imageBytes buf _ hk]

theorem dstPixel_imageComplete (q : Word) (s : State) (x y : Nat) :
    dstPixel (imageComplete q s) x y = dstPixel s x y := by
  simp only [dstPixel, dstOff, State.dstPitch, imageComplete_bppNow, imageComplete_ch]
  rfl

/-- The drawing of a complete image paints its rectangle (R267). -/
theorem drawImage_painted {s : State} (hwf : s.dev.wf = true) (hb : s.bppNow ≠ 0) (q : Word) :
    let k := s.cfg.packings
    let y := s.ch.ifc
    let x0 := k.ifcPoint.fst y.point
    let y0 := k.ifcPoint.snd y.point
    let w := k.ifcSizeOut.fst y.sizeOut
    let h := k.ifcSizeOut.snd y.sizeOut
    let u := drawImage s (imageComplete q s)
    DstOk s x0 y0 w h →
      SameBut (imageComplete q s) s.ch.surf.dstObj u
      ∧ DstPainted s u x0 y0 w h (fun _ _ => true) (fun i j b =>
          let n := (j * k.ifcSizeIn.fst y.sizeIn + i) * s.bppNow + b
          byteOf ((y.buf ++ [q]).getD (n / 4) 0).toNat (n % 4)) := by
  intro k y x0 y0 w h u hok
  let s2 := imageComplete q s
  let sw := k.ifcSizeIn.fst y.sizeIn
  have hu : u = loop h (fun j => loop w (uploadRound x0 y0 sw j)) s2 :=
    drawn_pixels (s := s2) (by rw [imageComplete_bppNow]; exact hb) _
  have hround : ∀ j i v, j < h → i < w → SameBut s2 s.ch.surf.dstObj v → uploadRound x0 y0 sw j i v
      = storeItem (dstPixel s (x0 + i) (y0 + j)) (imagePixel (y.buf ++ [q]) s.bppNow (j * sw + i)) v := by
    intro j i v _ _ hv
    rw [uploadRound_eq hv.sameView, dstPixel_imageComplete, imageComplete_bppNow, imageComplete_ch]
  obtain ⟨hsame, hbytes, hrest⟩ := plane_paint (s := s2) (sel := fun _ _ => true) hwf (Nat.pos_of_ne_zero hb) hok hround
  rw [hu]
  exact ⟨hsame, fun i j b hi hj hlt hs =>
    (hbytes i j b hi hj hlt hs).trans (byteOf_imagePixel _ _ (bppNow_le_four s) hlt), hrest⟩

/-- Settles O29. -/
theorem lastDataWordDrawsTheImage : Obligations.LastDataWordDrawsTheImage := by
  intro m p s hready hwf hb y k d q x0 y0 w h hstate hlast hok i hi _
  obtain ⟨hsame, hpaint⟩ := drawImage_painted (s := handed s d p) hwf hb q hok
  obtain ⟨t, ht, hdev, heq⟩ := exec_drew_dev (exec_lastImageData hready hi hstate hlast) rfl hsame rfl rfl
  exact ⟨t, ht, Painted.congr hpaint hdev, heq⟩

end Sys2Proof.Machine
end

section
/-! Copies on linear views of device memory (43_raster_classes.md R274 to R276, R286 to R288): O32, O33 and O34. -/
namespace Sys2Proof.Machine

open Sys2Proof

/-! ## Rectangles of one plane -/

section
variable {s : State} {obj ofs : Word} {pitch b : Nat}

theorem elemAddr_mono {x x' y y' : Nat} (hx : x ≤ x') (hy : y ≤ y') :
    elemAddr s obj ofs pitch b x y ≤ elemAddr s obj ofs pitch b x' y' := by
  have hrow : y * pitch ≤ y' * pitch := Nat.mul_le_mul_right _ hy
  have hcol : x * b ≤ x' * b := Nat.mul_le_mul_right _ hx
  unfold elemAddr
  omega

/-- A rectangle inside one that meets the conditions meets them. -/
theorem PlaneOk.inside {X0 Y0 W H x0 y0 w h : Nat} (hp : PlaneOk s obj ofs pitch b X0 Y0 W H) (hx0 : X0 ≤ x0)
    (hy0 : Y0 ≤ y0) (hx1 : x0 + w ≤ X0 + W) (hy1 : y0 + h ≤ Y0 + H) : PlaneOk s obj ofs pitch b x0 y0 w h := by
  obtain ⟨hlinear, hend, hshare, hapart⟩ := hp
  have hfirst := elemAddr_mono (s := s) (obj := obj) (ofs := ofs) (pitch := pitch) (b := b) hx0 hy0
  have hlast := elemAddr_mono (s := s) (obj := obj) (ofs := ofs) (pitch := pitch) (b := b) hx1 hy1
  refine ⟨hlinear, hlast.trans hend, ?_, ?_⟩
  · refine hshare.imp (fun hrow => ?_) fun hone => by omega
    exact (Nat.mul_le_mul_right b (by omega)).trans hrow
  · exact hapart.imp (fun hbefore => hbefore.trans hfirst) fun hbehind => hlast.trans hbehind

/-- Elements of a rectangle, by their columns and rows in the plane, share a byte only if they are one element. -/
theorem PlaneOk.cell_unique {X0 Y0 W H x y x' y' a : Nat} (hp : PlaneOk s obj ofs pitch b X0 Y0 W H) (hx : X0 ≤ x)
    (hx1 : x < X0 + W) (hy : Y0 ≤ y) (hy1 : y < Y0 + H) (hx' : X0 ≤ x') (hx1' : x' < X0 + W) (hy' : Y0 ≤ y')
    (hy1' : y' < Y0 + H) (h : cellBytes s obj ofs pitch b x y a) (h' : cellBytes s obj ofs pitch b x' y' a) :
    x = x' ∧ y = y' := by
  obtain ⟨-, -, hshare, -⟩ := hp
  have hsame := Machine.cell_unique (i := x - X0) (j := y - Y0) (i' := x' - X0) (j' := y' - Y0) hshare (by omega)
    (by omega) (by omega) (by omega) (by rwa [Nat.add_sub_cancel' hx, Nat.add_sub_cancel' hy])
    (by rwa [Nat.add_sub_cancel' hx', Nat.add_sub_cancel' hy'])
  omega

end

/-- Elements of rectangles that lie one behind the other share no byte. -/
theorem cellBytes_apart {s : State} {src sofs dst dofs : Word} {sp dp b sx sy dx dy w h i j i' j' a : Nat}
    (hdisjoint : elemAddr s dst dofs dp b (dx + w) (dy + h) ≤ elemAddr s src sofs sp b sx sy
      ∨ elemAddr s src sofs sp b (sx + w) (sy + h) ≤ elemAddr s dst dofs dp b dx dy)
    (hi : i < w) (hj : j < h) (hi' : i' < w) (hj' : j' < h) (hsrc : cellBytes s src sofs sp b (sx + i) (sy + j) a) :
    ¬ cellBytes s dst dofs dp b (dx + i') (dy + j') a := by
  intro hdst
  obtain ⟨hfirst, hlast⟩ := elemAddr_bounds (s := s) (obj := src) (ofs := sofs) (pitch := sp) (b := b) (x0 := sx)
    (y0 := sy) hi hj
  obtain ⟨hfirst', hlast'⟩ := elemAddr_bounds (s := s) (obj := dst) (ofs := dofs) (pitch := dp) (b := b) (x0 := dx)
    (y0 := dy) hi' hj'
  unfold cellBytes at hsrc hdst
  omega

/-! ## The block copy -/

/-- The address of a source pixel (R231). -/
def srcAddr (s : State) (x y : Nat) : Nat :=
  elemAddr s s.ch.surf.srcObj s.ch.surf.ofsSrc s.srcPitch s.bppNow x y

/-- The address of a destination pixel. -/
def dstAddr (s : State) (x y : Nat) : Nat :=
  elemAddr s s.ch.surf.dstObj s.ch.surf.ofsDst s.dstPitch s.bppNow x y

/-- A block copy changed device memory only, and there painted each destination pixel with its source pixel (R275). -/
def Copied (s t : State) (sx sy dx dy w h : Nat) : Prop :=
  SameBut s s.ch.surf.dstObj t ∧ DstPainted s t dx dy w h (fun _ _ => true)
    (fun i j k => getByte s.dev (srcAddr s (sx + i) (sy + j) + k))

section
variable {s : State} (hwf : s.dev.wf = true) (hb : s.bppNow ≠ 0) {sx sy dx dy w h : Nat} (hok : DstOk s dx dy w h)
  (hlinear : LinearDev s s.ch.surf.srcObj) (hend : srcAddr s (sx + w) (sy + h) ≤ s.cfg.vramSize)
  (hapart : s.ch.surf.srcObj.toNat + 12 ≤ dstAddr s dx dy ∨ dstAddr s (dx + w) (dy + h) ≤ s.ch.surf.srcObj.toNat)
include hwf hb hok hlinear hend hapart

/-- A block copy whose rounds read nothing that an earlier round wrote. -/
theorem copyPixels_copied (hord : ∀ j i j' i' a, j < h → i < w → i' < w → j' < j ∨ j' = j ∧ i' < i →
      let x := scanPos (decide (dx > sx)) w
      let y := scanPos (decide (dy > sy)) h
      srcAddr s (sx + x i) (sy + y j) ≤ a ∧ a < srcAddr s (sx + x i) (sy + y j) + s.bppNow →
      ¬ (dstAddr s (dx + x i') (dy + y j') ≤ a ∧ a < dstAddr s (dx + x i') (dy + y j') + s.bppNow)) :
    Copied s (copyPixels sx sy dx dy w h s) sx sy dx dy w h := by
  refine plane_copy (g := id) hwf (Nat.pos_of_ne_zero hb) (bppNow_le_four s) (fun _ _ _ => rfl) hok hlinear
    (fun i j hi hj => (elemAddr_bounds hi hj).2.trans hend) hapart hord fun j i u _ _ hu => ?_
  exact copyPixel_eq hu.sameView _ _ _ _

/-- Between rectangles that share no byte. -/
theorem copyPixels_between (hdisjoint : dstAddr s (dx + w) (dy + h) ≤ srcAddr s sx sy
      ∨ srcAddr s (sx + w) (sy + h) ≤ dstAddr s dx dy) :
    Copied s (copyPixels sx sy dx dy w h s) sx sy dx dy w h := by
  refine copyPixels_copied hwf hb hok hlinear hend hapart ?_
  intro j i j' i' a hj hi hi' hbefore x y hread
  exact cellBytes_apart hdisjoint (scanPos_lt _ hi) (scanPos_lt _ hj) (scanPos_lt _ hi') (scanPos_lt _ (by omega)) hread

end

/-- A scan that runs away from the destination reads no position that it has written (R275, R276). -/
theorem scanPos_away {src dst n k k' : Nat} (hk : k < n) (hk' : k' < n)
    (h : src + scanPos (decide (dst > src)) n k = dst + scanPos (decide (dst > src)) n k') :
    k ≤ k' ∧ (k = k' → src = dst) := by
  by_cases hbehind : dst > src
  · rw [decide_eq_true hbehind] at h
    simp only [scanPos, if_true] at h
    omega
  · rw [decide_eq_false hbehind] at h
    simp only [scanPos, Bool.false_eq_true, if_false] at h
    omega

/-- Inside one surface, whatever the overlap. -/
theorem copyPixels_within {s : State} (hwf : s.dev.wf = true) (hb : s.bppNow ≠ 0) {sx sy dx dy w h : Nat}
    (hobj : s.ch.surf.srcObj = s.ch.surf.dstObj) (hofs : s.ch.surf.ofsSrc = s.ch.surf.ofsDst)
    (hpitch : s.srcPitch = s.dstPitch)
    (hok : DstOk s (min sx dx) (min sy dy) (max sx dx + w - min sx dx) (max sy dy + h - min sy dy)) :
    Copied s (copyPixels sx sy dx dy w h s) sx sy dx dy w h := by
  have haddr : srcAddr s = dstAddr s := by
    funext x y
    rw [srcAddr, hobj, hofs, hpitch]
    rfl
  have hdst : DstOk s dx dy w h := hok.inside (by omega) (by omega) (by omega) (by omega)
  have hsrc : DstOk s sx sy w h := hok.inside (by omega) (by omega) (by omega) (by omega)
  have hlinear : LinearDev s s.ch.surf.srcObj := hobj ▸ hsrc.1
  have hend : srcAddr s (sx + w) (sy + h) ≤ s.cfg.vramSize := haddr ▸ hsrc.2.1
  refine copyPixels_copied hwf hb hdst hlinear hend (hobj ▸ hdst.2.2.2) ?_
  intro j i j' i' a hj hi hi' hbefore x y hread hwrite
  rw [haddr] at hread
  have hx : x i < w := scanPos_lt _ hi
  have hx' : x i' < w := scanPos_lt _ hi'
  have hy : y j < h := scanPos_lt _ hj
  have hy' : y j' < h := scanPos_lt _ (by omega)
  obtain ⟨hcol, hrow⟩ := hok.cell_unique (by omega) (by omega) (by omega) (by omega) (by omega) (by omega) (by omega)
    (by omega) hread hwrite
  obtain ⟨hi1, -⟩ := scanPos_away hi hi' hcol
  obtain ⟨hj1, -⟩ := scanPos_away hj (by omega) hrow
  omega

/-- The row of a block copy on linear views. -/
theorem exec_blitSize_copied {s : State} (hready : Ready s) (hb : s.bppNow ≠ 0) (p : Word) :
    let k := s.cfg.packings
    let m : Word := s.cfg.mthds.blitSize.setWidth 32
    let q := paramValue s m p
    let sx := k.blitPointIn.fst s.ch.blit.pointIn
    let sy := k.blitPointIn.snd s.ch.blit.pointIn
    let dx := k.blitPointOut.fst s.ch.blit.pointOut
    let dy := k.blitPointOut.snd s.ch.blit.pointOut
    let w := k.blitSize.fst q
    let h := k.blitSize.snd q
    Copied (handed s m p) (copyPixels sx sy dx dy w h (handed s m p)) sx sy dx dy w h →
    ∃ t, exec (.blitSize p) s = .next t
      ∧ DstPainted s t dx dy w h (fun _ _ => true)
          (fun i j k => getByte s.dev (srcAddr s (sx + i) (sy + j) + k))
      ∧ t = afterParam id { resolved s m p with dev := t.dev, dirty := s.dirty ++ [.rect dx dy w h] } := by
  intro k m q sx sy dx dy w h hcopied
  obtain ⟨hsame, hpaint⟩ := hcopied
  obtain ⟨t, ht, hdev, heq⟩ := exec_drew_dev (exec_blitSize hready p) (drawn_pixels (s := handed s m p) hb _) hsame rfl rfl
  exact ⟨t, ht, Painted.congr hpaint hdev, heq⟩

/-- Settles O32. -/
theorem blitIsOverlapSafe : Obligations.BlitIsOverlapSafe := by
  intro p s hready hwf hb f k m q sx sy dx dy w h hobj hofs hpitch hok
  exact exec_blitSize_copied hready hb p (copyPixels_within (s := handed s m p) hwf hb hobj hofs hpitch hok)

/-- Settles O33. -/
theorem blitCopiesBetweenViews : Obligations.BlitCopiesBetweenViews := by
  intro p s hready hwf hb f b k m q sx sy dx dy w h lo hi hok hlinear hend hdisjoint hapart
  exact exec_blitSize_copied hready hb p
    (copyPixels_between (s := handed s m p) hwf hb hok hlinear hend hapart hdisjoint)

/-! ## The memory copy -/

/-- The copy of lines between planes that share no byte, in the state in which the trigger's value is stored (R287). -/
theorem copyImage_painted {s : State} (hwf : s.dev.wf = true) (q : Word) :
    let y := s.ch.m2mf
    let n := lineWords y
    let l := y.lineCount.toNat
    let lo := elemAddr s y.dstObj y.ofsOut y.pitchOut.toNat 4 0 0
    let hi := elemAddr s y.dstObj y.ofsOut y.pitchOut.toNat 4 n l
    let u := copyImage s (modCh (notifyStored q) s)
    PlaneOk s y.dstObj y.ofsOut y.pitchOut.toNat 4 0 0 n l → LinearDev s y.srcObj →
    elemAddr s y.srcObj y.ofsIn y.pitchIn.toNat 4 n l ≤ s.cfg.vramSize →
    (hi ≤ elemAddr s y.srcObj y.ofsIn y.pitchIn.toNat 4 0 0 ∨ elemAddr s y.srcObj y.ofsIn y.pitchIn.toNat 4 n l ≤ lo) →
    (y.srcObj.toNat + 12 ≤ lo ∨ hi ≤ y.srcObj.toNat) →
    SameBut (modCh (notifyStored q) s) y.dstObj u
      ∧ Painted s u y.dstObj y.ofsOut y.pitchOut.toNat 4 0 0 n l (fun _ _ => true)
          (fun i j k => getByte s.dev (elemAddr s y.srcObj y.ofsIn y.pitchIn.toNat 4 i j + k)) := by
  intro y n l lo hi u hok hlinear hend hdisjoint hapart
  have hn : 0 + n = n := Nat.zero_add n
  have hl : 0 + l = l := Nat.zero_add l
  obtain ⟨hsame, hbytes, hrest⟩ := plane_copy (f := copyWord) (s := modCh (notifyStored q) s) (src := y.srcObj)
    (sofs := y.ofsIn) (sp := y.pitchIn.toNat) (sx := 0) (sy := 0) (xr := false) (yr := false) (g := id) (b := 4) hwf
    (by decide) (by decide) (fun _ _ _ => rfl) hok hlinear
    (fun i j hi hj => (elemAddr_bounds hi hj).2.trans (by rw [hn, hl]; exact hend)) (by rw [hn, hl]; exact hapart)
    (fun j i j' i' a hj hi hi' hbefore hread => cellBytes_apart (w := n) (h := l) (by rw [hn, hl]; exact hdisjoint)
      hi hj hi' (by show j' < l; omega) hread)
    (fun j i v _ _ hv => by
      rw [copyWord_eq hv.sameView, ch_modCh]
      simp only [Nat.zero_add]
      rfl)
  refine ⟨hsame, fun i j k hi hj hk hs => ?_, hrest⟩
  have hbyte := hbytes i j k hi hj hk hs
  simp only [Nat.zero_add] at hbyte ⊢
  exact hbyte

/-- The lines are reported as the device's display match says (R288). -/
theorem lineRecords_linear {s s1 u : State} (hlinear : LinearDev s s.ch.m2mf.dstObj) (hu : SameBut s1 s.ch.m2mf.dstObj u)
    (hcfg : s1.cfg = s.cfg) (hdev : s1.dev = s.dev) :
    lineRecords s u = match s.cfg.displayMatch with
      | .deviceTarget => [.bytes s.ch.m2mf.ofsOut s.ch.m2mf.pitchOut (4 * lineWords s.ch.m2mf) s.ch.m2mf.lineCount.toNat]
      | .oneOf objs => if s.ch.m2mf.dstObj ∈ objs then
          [.bytes s.ch.m2mf.ofsOut s.ch.m2mf.pitchOut (4 * lineWords s.ch.m2mf) s.ch.m2mf.lineCount.toNat] else [] := by
  have hucfg : u.cfg = s.cfg := hu.sameView.cfg.trans hcfg
  have hword : devRead u s.ch.m2mf.dstObj 4 = devRead s s.ch.m2mf.dstObj 4 :=
    devRead_congr hucfg fun k hk => by rw [hu.2.2 _ (by omega) (by omega), hdev]
  obtain ⟨-, -, hdevice, -⟩ := hlinear
  simp only [lineRecords, displayMatches, hucfg, hword]
  cases s.cfg.displayMatch with
  | deviceTarget => exact if_pos (by simp [hdevice])
  | oneOf objs => simp

/-- Settles O34. -/
theorem memCopyCopiesLines : Obligations.MemCopyCopiesLines := by
  intro p s hready hwf y m n l lo hi hok hlinear hend hdisjoint hapart
  let q := paramValue s m p
  obtain ⟨hsame, hpaint⟩ := copyImage_painted (s := handed s m p) hwf q hok hlinear hend hdisjoint hapart
  obtain ⟨t, ht, hdev, heq⟩ := exec_drew_dev (exec_m2mfBufferNotify hready p) rfl hsame rfl rfl
  have hrecords := lineRecords_linear (s := s) hok.1 hsame rfl rfl
  refine ⟨t, ht, Painted.congr hpaint hdev, heq.trans ?_⟩
  exact congrArg (fun r => afterParam (notifyStored q) { resolved s m p with dev := t.dev, dirty := s.dirty ++ r }) hrecords

end Sys2Proof.Machine
end

section
/-! The clear on linear views of device memory (43_raster_classes.md R297 to R301): O35 and O36. -/
namespace Sys2Proof

/-- The codes of the default tables of R301, by the low four bits and the next four bits of the format. -/
theorem clearSizes_default : ∀ f < 16,
    Machine.bytesIn clearDefault.colorSizes (BitVec.ofNat 32 f)
        = (if 1 ≤ f ∧ f ≤ 3 then 2 else if 4 ≤ f ∧ f ≤ 8 then 4 else 0)
      ∧ Machine.bytesIn clearDefault.zetaSizes (BitVec.ofNat 32 f) = if f = 1 then 2 else if f = 2 then 4 else 0 := by
  decide

end Sys2Proof

namespace Sys2Proof.Machine

open Sys2Proof

/-! ## Sizes and the rectangle -/

/-- Four bits of a word. -/
theorem ofNat_nibble (v : Word) : (v &&& 0xF).toNat < 16 ∧ BitVec.ofNat 32 (v &&& 0xF).toNat = v &&& 0xF := by
  refine ⟨?_, by simp⟩
  rw [BitVec.toNat_and]
  exact Nat.lt_succ_of_le Nat.and_le_right

theorem cbytes_default {cfg : Config} (h : cfg.clear = clearDefault) (v : Word) :
    let f := (v &&& 0xF).toNat
    cbytes cfg v = if 1 ≤ f ∧ f ≤ 3 then 2 else if 4 ≤ f ∧ f ≤ 8 then 4 else 0 := by
  intro f
  obtain ⟨hlt, hword⟩ := ofNat_nibble v
  have hcode : cbytes cfg v = bytesIn clearDefault.colorSizes (v &&& 0xF) := by
    rw [cbytes, h]
    simp [BitField.get, clearDefault]
  rw [hcode, ← hword]
  exact (clearSizes_default f hlt).1

theorem zbytes_default {cfg : Config} (h : cfg.clear = clearDefault) (v : Word) :
    let f := ((v >>> 4) &&& 0xF).toNat
    zbytes cfg v = if f = 1 then 2 else if f = 2 then 4 else 0 := by
  intro f
  obtain ⟨hlt, hword⟩ := ofNat_nibble (v >>> 4)
  have hcode : zbytes cfg v = bytesIn clearDefault.zetaSizes ((v >>> 4) &&& 0xF) := by
    rw [zbytes, h]
    rfl
  rw [hcode, ← hword]
  exact (clearSizes_default f hlt).2

/-- The forms of a rectangle on natural numbers (R298 to R300). -/
theorem spanOf_eq (form : SpanForm) (first second : Nat) :
    spanOf form first second = match form with
      | .inclusive => second + 1 - first
      | .exclusive => second - first
      | .count => second := by
  cases form with
  | inclusive =>
    show (if second ≥ first then second - first + 1 else 0) = second + 1 - first
    split <;> omega
  | exclusive => rfl
  | count => rfl

/-! ## One plane -/

theorem clearStores_painted {s : State} (hwf : s.dev.wf = true) {obj base : Word} {pitch b x0 y0 w h : Nat}
    (hb : b ≠ 0) (hb4 : b ≤ 4) (hok : PlaneOk s obj base pitch b x0 y0 w h) (v : Word) :
    let t := storeAll (clearStores obj base pitch b x0 y0 w h v) s
    SameBut s obj t
      ∧ Painted s t obj base pitch b x0 y0 w h (fun _ _ => true) (fun _ _ k => byteOf v.toNat k) := by
  intro t
  rw [show t = clearPlane obj base pitch b x0 y0 w h v s from (clearPlane_eq_storeAll hb4 ..).symm]
  exact plane_paint (sel := fun _ _ => true) hwf (Nat.pos_of_ne_zero hb) hok
    fun j i u _ _ _ => clearRound_eq hb4 obj base pitch x0 y0 v j i u

/-- The row of a clear whose stores are those of one plane. -/
theorem exec_d3dClear_plane {s : State} (hready : Ready s) (hwf : s.dev.wf = true) (p : Word) {obj base v : Word}
    {pitch b : Nat} (hb : b ≠ 0) (hb4 : b ≤ 4) :
    let m : Word := s.cfg.mthds.d3dClear.setWidth 32
    let q := paramValue s m p
    let w := clearColumns s
    let h := clearRows s
    colorStores q s ++ zetaStores q s = clearStores obj base pitch b (clearLeft s) (clearTop s) w h v →
    PlaneOk s obj base pitch b (clearLeft s) (clearTop s) w h →
    ∃ t, exec (.d3dClear p) s = .next t
      ∧ Painted s t obj base pitch b (clearLeft s) (clearTop s) w h (fun _ _ => true) (fun _ _ k => byteOf v.toNat k)
      ∧ t = afterParam id
          { resolved s m p with dev := t.dev, dirty := s.dirty ++ [.rect (clearLeft s) (clearTop s) w h] } := by
  intro m q w h hstores hok
  obtain ⟨hsame, hpaint⟩ := clearStores_painted (s := handed s m p) hwf hb hb4 hok v
  obtain ⟨t, ht, hdev, heq⟩ := exec_drew_dev (exec_d3dClear hready p)
    (congrArg (fun ws => storeAll ws (handed s m p)) hstores) hsame rfl rfl
  exact ⟨t, ht, hpaint.congr hdev, heq⟩

/-- The row of a clear with no plane enabled. -/
theorem exec_d3dClear_none {s : State} (hready : Ready s) (p : Word) :
    let m : Word := s.cfg.mthds.d3dClear.setWidth 32
    let q := paramValue s m p
    colorStores q s ++ zetaStores q s = [] →
    exec (.d3dClear p) s = .next (afterParam id { resolved s m p with
      dirty := s.dirty ++ [.rect (clearLeft s) (clearTop s) (clearColumns s) (clearRows s)] }) := by
  intro m q hstores
  exact (exec_d3dClear hready p).trans (by rw [hstores]; rfl)

/-- Settles O35: the tables, then the three cases of the enables. -/
theorem clearFillsOnePlane : Obligations.ClearFillsOnePlane := by
  refine ⟨fun cfg v => ⟨rfl, rfl, fun hdef => ⟨cbytes_default hdef v, zbytes_default hdef v⟩⟩, fun _ => rfl, rfl, rfl,
    rfl, ?_⟩
  intro p s hready hwf y f k m q span x0 y0 w h cp zp cb zb color depth report
  have hw : w = clearColumns s := (spanOf_eq ..).symm
  have hh : h = clearRows s := (spanOf_eq ..).symm
  have hcb4 : cb ≤ 4 := bytesIn_le_four _ _
  have hzb4 : zb ≤ 4 := bytesIn_le_four _ _
  clear_value w h
  subst hw hh
  refine ⟨fun hcolor hdepth hok => ?color, fun hcolor hdepth hok => ?depth, fun hcolor hdepth => ?neither⟩
  case color =>
    refine exec_d3dClear_plane hready hwf p hcolor.2 hcb4 ?_ hok
    rw [colorStores, zetaStores, if_pos hcolor, if_neg hdepth, List.append_nil]
  case depth =>
    refine exec_d3dClear_plane hready hwf p hdepth.2 hzb4 ?_ hok
    rw [colorStores, zetaStores, if_neg hcolor, if_pos hdepth, List.nil_append]
  case neither =>
    refine exec_d3dClear_none hready p ?_
    rw [colorStores, zetaStores, if_neg hcolor, if_neg hdepth, List.nil_append]

/-! ## Both planes -/

section
variable {s t : State} {obj ofs : Word} {pitch b x0 y0 w h : Nat}

/-- Bytes before and behind a painted rectangle. -/
theorem Painted.outside {sel : Nat → Nat → Bool} {v : Nat → Nat → Nat → Byte}
    (hp : Painted s t obj ofs pitch b x0 y0 w h sel v) {a : Nat}
    (ha : a < elemAddr s obj ofs pitch b x0 y0 ∨ elemAddr s obj ofs pitch b (x0 + w) (y0 + h) ≤ a) :
    getByte t.dev a = getByte s.dev a := by
  refine hp.2 a fun i j k hi hj hk _ => ?_
  obtain ⟨hfirst, hlast⟩ := elemAddr_bounds (s := s) (obj := obj) (ofs := ofs) (pitch := pitch) (b := b) (x0 := x0)
    (y0 := y0) hi hj
  omega

/-- The conditions on a view stand on its descriptor. -/
theorem LinearDev.congr (hlinear : LinearDev s obj) (hc : t.cfg = s.cfg)
    (hd : ∀ a, obj.toNat ≤ a → a < obj.toNat + 12 → getByte t.dev a = getByte s.dev a) :
    LinearDev t obj ∧ viewBase t obj = viewBase s obj := by
  have h8 := linear_bits hlinear
  have hword : devRead t obj 4 = devRead s obj 4 := devRead_congr hc fun k hk => hd _ (by omega) (by omega)
  have hbase : devRead t (obj + 8) 4 = devRead s (obj + 8) 4 := devRead_congr hc fun k hk => hd _ (by omega) (by omega)
  unfold LinearDev viewBase at *
  rw [hword, hbase, hc]
  exact ⟨hlinear, rfl⟩

theorem PlaneOk.congr (hok : PlaneOk s obj ofs pitch b x0 y0 w h) (hc : t.cfg = s.cfg)
    (hd : ∀ a, obj.toNat ≤ a → a < obj.toNat + 12 → getByte t.dev a = getByte s.dev a) :
    PlaneOk t obj ofs pitch b x0 y0 w h ∧ elemAddr t obj ofs pitch b = elemAddr s obj ofs pitch b := by
  obtain ⟨hlinear, hrest⟩ := hok
  obtain ⟨hlinear', hbase⟩ := hlinear.congr hc hd
  have haddr : elemAddr t obj ofs pitch b = elemAddr s obj ofs pitch b := by
    funext x y
    rw [elemAddr, hbase]
    rfl
  refine ⟨⟨hlinear', ?_⟩, haddr⟩
  rw [haddr, hc]
  exact hrest

/-- An executor that wrote outside a descriptor, then one that wrote outside it as well. -/
theorem SameBut.trans_of {obj' : Word} {u : State} (h : SameBut s obj' t)
    (hd : ∀ a, obj.toNat ≤ a → a < obj.toNat + 12 → getByte t.dev a = getByte s.dev a) (h' : SameBut t obj u) :
    SameBut s obj u := by
  obtain ⟨hframe, -, -⟩ := h
  obtain ⟨hframe', hwf, hbytes⟩ := h'
  refine ⟨?_, hwf, fun a hlo hhi => (hbytes a hlo hhi).trans (hd a hlo hhi)⟩
  rw [hframe', hframe]

end

/-- The elements of a rectangle of two planes, and no other byte of device memory, took the value of their plane. -/
def BothPainted (s t : State) (cobj cofs zobj zofs cv zv : Word) (cp cb zp zb x0 y0 w h : Nat) : Prop :=
  let ca (i j : Nat) := elemAddr s cobj cofs cp cb (x0 + i) (y0 + j)
  let za (i j : Nat) := elemAddr s zobj zofs zp zb (x0 + i) (y0 + j)
  (∀ i j k, i < w → j < h → k < cb → getByte t.dev (ca i j + k) = byteOf cv.toNat k)
    ∧ (∀ i j k, i < w → j < h → k < zb → getByte t.dev (za i j + k) = byteOf zv.toNat k)
    ∧ ∀ a, (∀ i j k, i < w → j < h → k < cb → a ≠ ca i j + k) → (∀ i j k, i < w → j < h → k < zb → a ≠ za i j + k) →
        getByte t.dev a = getByte s.dev a

theorem BothPainted.congr {s t u : State} {cobj cofs zobj zofs cv zv : Word} {cp cb zp zb x0 y0 w h : Nat}
    (hp : BothPainted s u cobj cofs zobj zofs cv zv cp cb zp zb x0 y0 w h) (hdev : t.dev = u.dev) :
    BothPainted s t cobj cofs zobj zofs cv zv cp cb zp zb x0 y0 w h := by
  unfold BothPainted
  rw [hdev]
  exact hp

/-- The colour plane, then the depth plane: on planes that lie apart each keeps what it got (R300). -/
theorem clearStores_both {s : State} (hwf : s.dev.wf = true) {cobj cofs zobj zofs cv zv : Word}
    {cp cb zp zb x0 y0 w h : Nat} (hcb : cb ≠ 0) (hcb4 : cb ≤ 4) (hzb : zb ≠ 0) (hzb4 : zb ≤ 4)
    (hcolor : PlaneOk s cobj cofs cp cb x0 y0 w h) (hzeta : PlaneOk s zobj zofs zp zb x0 y0 w h)
    (hdisjoint : elemAddr s cobj cofs cp cb (x0 + w) (y0 + h) ≤ elemAddr s zobj zofs zp zb x0 y0
      ∨ elemAddr s zobj zofs zp zb (x0 + w) (y0 + h) ≤ elemAddr s cobj cofs cp cb x0 y0)
    (hapart : zobj.toNat + 12 ≤ elemAddr s cobj cofs cp cb x0 y0
      ∨ elemAddr s cobj cofs cp cb (x0 + w) (y0 + h) ≤ zobj.toNat) :
    let u := storeAll (clearStores cobj cofs cp cb x0 y0 w h cv ++ clearStores zobj zofs zp zb x0 y0 w h zv) s
    SameBut s zobj u ∧ BothPainted s u cobj cofs zobj zofs cv zv cp cb zp zb x0 y0 w h := by
  intro u
  let t := storeAll (clearStores cobj cofs cp cb x0 y0 w h cv) s
  obtain ⟨hsame, hpaint⟩ : SameBut s cobj t ∧ Painted s t cobj cofs cp cb x0 y0 w h _ _ :=
    clearStores_painted hwf hcb hcb4 hcolor cv
  have hdescriptor : ∀ a, zobj.toNat ≤ a → a < zobj.toNat + 12 → getByte t.dev a = getByte s.dev a :=
    fun a hlo hhi => hpaint.outside (by omega)
  obtain ⟨hzeta', haddr⟩ := hzeta.congr (t := t) hsame.sameView.cfg hdescriptor
  obtain ⟨hsame', hpaint'⟩ := clearStores_painted hsame.2.1 hzb hzb4 hzeta' zv
  have hu : u = storeAll (clearStores zobj zofs zp zb x0 y0 w h zv) t := storeAll_append _ _ s
  rw [← hu] at hsame' hpaint'
  have houtside := fun a => hpaint'.outside (a := a)
  unfold Painted at hpaint'
  rw [haddr] at houtside hpaint'
  refine ⟨hsame.trans_of hdescriptor hsame', fun i j k hi hj hk => ?_, fun i j k hi hj hk => hpaint'.1 i j k hi hj hk rfl,
    fun a hc hz => ?_⟩
  · obtain ⟨hfirst, hlast⟩ := elemAddr_bounds (s := s) (obj := cobj) (ofs := cofs) (pitch := cp) (b := cb) (x0 := x0)
      (y0 := y0) hi hj
    exact (houtside (elemAddr s cobj cofs cp cb (x0 + i) (y0 + j) + k) (by omega)).trans (hpaint.1 i j k hi hj hk rfl)
  · exact (hpaint'.2 a fun i j k hi hj hk _ => hz i j k hi hj hk).trans
      (hpaint.2 a fun i j k hi hj hk _ => hc i j k hi hj hk)

/-- Settles O36. -/
theorem clearFillsBothPlanes : Obligations.ClearFillsBothPlanes := by
  intro p s hready hwf y f k m q span x0 y0 w h cp zp cb zb ca za hce hze hcb hzb hcolor hzeta hdisjoint hapart
  have hw : w = clearColumns s := (spanOf_eq ..).symm
  have hh : h = clearRows s := (spanOf_eq ..).symm
  clear_value w h
  subst hw hh
  obtain ⟨hsame, hpaint⟩ := clearStores_both (s := handed s m p) (cv := y.cclear) (zv := y.zclear) hwf hcb
    (bytesIn_le_four _ _) hzb (bytesIn_le_four _ _) hcolor hzeta hdisjoint hapart
  have hstores : colorStores q s ++ zetaStores q s = _ := congrArg₂ (· ++ ·) (if_pos ⟨hce, hcb⟩) (if_pos ⟨hze, hzb⟩)
  obtain ⟨t, ht, hdev, heq⟩ := exec_drew_dev (exec_d3dClear hready p)
    (congrArg (fun ws => storeAll ws (handed s m p)) hstores) hsame rfl rfl
  obtain ⟨hcolored, hdeep, hrest⟩ := hpaint.congr hdev
  exact ⟨t, ht, hcolored, hdeep, hrest, heq⟩

end Sys2Proof.Machine
end

section
/-! Executors on any object (43_raster_classes.md R250, 20_memory.md R86, R88): what they leave of device memory, whatever
their stores meet: O38. -/
namespace Sys2Proof.Machine

open Sys2Proof

/-! ## States that only stores in given items lead to -/

/-- `u` differs from `s` in memory and its requests only: with every item of `cs` in system memory device memory is that
of `s`, and where `cs` is steady only bytes that an item covers differ. -/
structure OnlyItems (s : State) (cs : List Item) (u : State) : Prop where
  stores : SameButStores s u
  sys : (∀ c ∈ cs, (dmaXlate s c.obj c.off).1 = .sys) → u.dev = s.dev
  dev : s.dev.wf = true → Steady s cs →
    u.dev.wf = true ∧ ∀ a, (∀ c ∈ cs, ¬ c.covers s a) → getByte u.dev a = getByte s.dev a

section
variable {s u : State} {cs : List Item}

theorem onlyItems_refl (s : State) (cs : List Item) : OnlyItems s cs s :=
  ⟨sameButStores_refl s, fun _ => rfl, fun hwf _ => ⟨hwf, fun _ _ => rfl⟩⟩

theorem OnlyItems.view (h : OnlyItems s cs u) : SameView s u := h.stores.sameView

theorem OnlyItems.unmoved (h : OnlyItems s cs u) (hwf : s.dev.wf = true) (hsteady : Steady s cs) : Unmoved s cs u := by
  obtain ⟨hwf', hrest⟩ := h.dev hwf hsteady
  refine ⟨h.view.cfg, hwf', fun c hc r hr k hk => hrest _ fun d hd hcovers => ?_⟩
  have := hsteady d hd _ hcovers c hc r hr
  omega

theorem OnlyItems.storeItem (h : OnlyItems s cs u) {c : Item} (hc : c ∈ cs) (v : Word) :
    OnlyItems s cs (storeItem c v u) := by
  refine ⟨sameButStores_storeItem h.stores c v, fun hsys => ?_, fun hwf hsteady => ?_⟩
  · have hdev := h.sys hsys
    have hxlate : dmaXlate u c.obj c.off = dmaXlate s c.obj c.off := dmaXlate_congr hdev h.view.cfg _ _
    rw [Machine.storeItem, dmaWrite_sys_target (by rw [hxlate]; exact hsys c hc)]
    exact hdev
  · obtain ⟨hwf', hother, -⟩ := dmaWrite_item (h.unmoved hwf hsteady) hc v
    exact ⟨hwf', fun a ha => (hother a (ha c hc)).trans ((h.dev hwf hsteady).2 a ha)⟩

theorem OnlyItems.dmaRead (h : OnlyItems s cs u) (obj off : Word) (n : Nat) :
    OnlyItems s cs (dmaRead obj off n u).2 := by
  have hdev : (Machine.dmaRead obj off n u).2.dev = u.dev := by rw [dmaRead_frame]
  refine ⟨h.stores.trans (sameButStores_dmaRead obj off n u), ?_, ?_⟩
  · rw [hdev]
    exact h.sys
  · rw [hdev]
    exact h.dev

theorem OnlyItems.moveItem (h : OnlyItems s cs u) (c : Item) {d : Item} (hd : d ∈ cs) :
    OnlyItems s cs (moveItem c d u) := (h.dmaRead _ _ _).storeItem hd _

theorem OnlyItems.storeAll (h : OnlyItems s cs u) {ws : List (Item × Word)} (hws : ∀ w ∈ ws, w.1 ∈ cs) :
    OnlyItems s cs (storeAll ws u) := by
  induction ws generalizing u with
  | nil => exact h
  | cons w ws ih =>
    exact ih (h.storeItem (hws w List.mem_cons_self) w.2) fun x hx => hws x (List.mem_cons_of_mem _ hx)

theorem onlyItems_loop {f : Nat → Nat → State → State} {w h : Nat}
    (hf : ∀ j i u, j < h → i < w → OnlyItems s cs u → OnlyItems s cs (f j i u)) :
    OnlyItems s cs (loop h (fun j => loop w (f j)) s) :=
  loop_keeps (fun j _ hj hu => loop_keeps (fun i v hi hv => hf j i v hj hi hv) hu) (onlyItems_refl s cs)

theorem onlyItems_drawn {e : State → State} (he : OnlyItems s cs (e s)) : OnlyItems s cs (drawn e s) := by
  unfold drawn
  split
  · exact he
  · exact onlyItems_refl s cs

end

/-! ## The items of each executor -/

/-- The destination pixels of a rectangle. -/
def dstPixels (s : State) (x y w h : Nat) : List Item := grid w h (fun i j => [dstPixel s (x + i) (y + j)])

theorem dstPixel_mem (s : State) (x y : Nat) {w h i j : Nat} (hi : i < w) (hj : j < h) :
    dstPixel s (x + i) (y + j) ∈ dstPixels s x y w h := mem_grid.2 ⟨i, j, hi, hj, List.mem_singleton_self _⟩

theorem onlyItems_fillPixels (x0 y0 w h : Nat) (clipped : Bool) (s : State) :
    OnlyItems s (dstPixels s x0 y0 w h) (fillPixels x0 y0 w h clipped s) := by
  rw [fillPixels_eq]
  refine onlyItems_loop fun j i u hj hi hu => ?_
  rw [fillRound_eq hu.view]
  split
  · exact hu.storeItem (dstPixel_mem s x0 y0 hi hj) _
  · exact hu

theorem onlyItems_uploadPixels (dx dy dw dh sw : Nat) (s : State) :
    OnlyItems s (dstPixels s dx dy dw dh) (uploadPixels dx dy dw dh sw s) := by
  rw [uploadPixels_eq]
  refine onlyItems_loop fun j i u hj hi hu => ?_
  rw [uploadRound_eq hu.view]
  exact hu.storeItem (dstPixel_mem s dx dy hi hj) _

theorem onlyItems_copyPixels (sx sy dx dy w h : Nat) (s : State) :
    OnlyItems s (dstPixels s dx dy w h) (copyPixels sx sy dx dy w h s) := by
  rw [copyPixels_eq]
  refine onlyItems_loop fun j i u hj hi hu => ?_
  rw [copyRound, copyPixel_eq hu.view]
  exact hu.moveItem _ (dstPixel_mem s dx dy (scanPos_lt _ hi) (scanPos_lt _ hj))

theorem onlyItems_drawImage {s : State} (q : Word) :
    let y := s.ch.ifc
    let k := s.cfg.packings
    OnlyItems (imageComplete q s) (dstPixels s (k.ifcPoint.fst y.point) (k.ifcPoint.snd y.point)
      (k.ifcSizeOut.fst y.sizeOut) (k.ifcSizeOut.snd y.sizeOut)) (drawImage s (imageComplete q s)) := by
  intro y k
  have hpixels : dstPixels (imageComplete q s) = dstPixels s := by
    funext x y w h
    simp only [dstPixels, dstPixel_imageComplete]
  rw [← hpixels]
  exact onlyItems_drawn (onlyItems_uploadPixels _ _ _ _ _ _)

/-- The words of the destination lines of a memory copy. -/
def dstWords (y : M2mfState) : List Item := grid (lineWords y) y.lineCount.toNat (fun k l => [dstWord y l k])

theorem onlyItems_copyImage (q : Word) (s : State) :
    OnlyItems (modCh (notifyStored q) s) (dstWords s.ch.m2mf) (copyImage s (modCh (notifyStored q) s)) := by
  refine onlyItems_loop fun l k u hl hk hu => ?_
  rw [copyWord_eq hu.view, ch_modCh]
  exact hu.moveItem _ (mem_grid.2 ⟨k, l, hk, hl, List.mem_singleton_self _⟩)

/-- The elements of the rectangle of a clear in a plane. -/
def clearElems (s : State) (obj base : Word) (pitch b : Nat) : List Item :=
  grid (clearColumns s) (clearRows s) (fun i j => [planeElem obj base pitch b (clearLeft s + i) (clearTop s + j)])

theorem mem_clearElems {s : State} {obj base v : Word} {pitch b : Nat} {e : Item × Word}
    (he : e ∈ clearStores obj base pitch b (clearLeft s) (clearTop s) (clearColumns s) (clearRows s) v) :
    e.1 ∈ clearElems s obj base pitch b := by
  obtain ⟨i, j, hi, hj, hmem⟩ := mem_grid.1 he
  rw [List.mem_singleton.1 hmem]
  exact mem_grid.2 ⟨i, j, hi, hj, List.mem_singleton_self _⟩

/-- The elements of a clear in its two planes, enabled or not. -/
def clearItems (s : State) : List Item :=
  let y := s.ch.d3d
  clearElems s y.colorObj y.colorOfs (s.cfg.packings.d3dSurfacePitch.fst y.pitch) (cbytes s.cfg y.format)
    ++ clearElems s y.zetaObj y.zetaOfs (s.cfg.packings.d3dSurfacePitch.snd y.pitch) (zbytes s.cfg y.format)

theorem mem_clearItems {s : State} {q : Word} {e : Item × Word} (he : e ∈ colorStores q s ++ zetaStores q s) :
    e.1 ∈ clearItems s := by
  rcases List.mem_append.1 he with hcolor | hzeta
  · exact List.mem_append_left _ (mem_clearElems (List.mem_ite_nil_right.1 hcolor).2)
  · exact List.mem_append_right _ (mem_clearElems (List.mem_ite_nil_right.1 hzeta).2)

/-! ## The rows -/

/-- What O38 says of a row: it runs to its end, and changes the items `cs` only, beside its requests, the record by `f`
and its report. -/
def RanOn (s : State) (i : Instr) (m p : Word) (f : Channel → Channel) (cs : List Item)
    (reports : State → List DirtyRec) : Prop :=
  ∃ t, exec i s = .next t
    ∧ ((∀ c ∈ cs, (dmaXlate s c.obj c.off).1 = .sys) → t.dev = s.dev)
    ∧ (s.dev.wf = true → Steady s cs → ∀ a, (∀ c ∈ cs, ¬ c.covers s a) → getByte t.dev a = getByte s.dev a)
    ∧ t = afterParam f { resolved s m p with dev := t.dev, sysBus := t.sysBus, sysReads := t.sysReads,
                                             dirty := s.dirty ++ reports t }

/-- A row whose executor, in a state `s1` with the memory and configuration of `s`, stores in given items only. -/
theorem ranOn {s s1 e : State} {i : Instr} {m p : Word} {f : Channel → Channel} {records : List DirtyRec}
    (hx : exec i s = .next (afterParam f (drew (resolved s m p) e records))) {cs : List Item} (he : OnlyItems s1 cs e)
    (hmem : s1 = { s1 with dev := s.dev, cfg := s.cfg }) {reports : State → List DirtyRec}
    (hreports : ∀ t : State, t.dev = e.dev → t.cfg = s.cfg → reports t = records) : RanOn s i m p f cs reports := by
  rw [hmem] at he
  refine ⟨_, hx, he.sys, fun hwf hsteady => (he.dev hwf hsteady).2, ?_⟩
  rw [hreports (afterParam f (drew (resolved s m p) e records)) rfl rfl]
  rfl

/-- The test for the display reads device memory and the configuration only (R288). -/
theorem lineRecords_congr {s t u : State} (hdev : t.dev = u.dev) (hcfg : t.cfg = u.cfg) :
    lineRecords s t = lineRecords s u := by
  have hshown : displayMatches t s.ch.m2mf.dstObj = displayMatches u s.ch.m2mf.dstObj := by
    simp only [displayMatches, devRead, hdev, hcfg]
  simp only [lineRecords, hshown]

/-- Settles O38. -/
theorem executorsComplete : Obligations.ExecutorsComplete := by
  intro i p s hready f g b u y m k n pixels lines ran paints
  refine ⟨?fill, ?clippedFill, ?blit, ?copy, ?clear, ?upload⟩
  case fill =>
    exact ranOn (exec_gdiUnclippedSize hready p i) (onlyItems_drawn (onlyItems_fillPixels ..)) rfl fun _ _ _ => rfl
  case clippedFill =>
    exact ranOn (exec_gdiClippedPoint1 hready p i) (onlyItems_drawn (onlyItems_fillPixels ..)) rfl fun _ _ _ => rfl
  case blit =>
    exact ranOn (exec_blitSize hready p) (onlyItems_drawn (onlyItems_copyPixels ..)) rfl fun _ _ _ => rfl
  case copy =>
    intro d
    have hlines : lines = dstWords m := by
      simp only [lines, dstWords, dstWord, Nat.mul_comm 4]
      rfl
    have hcopy := onlyItems_copyImage (paramValue s d p) (handed s d p)
    show RanOn s _ d p _ lines _
    rw [hlines]
    refine ranOn (exec_m2mfBufferNotify hready p) hcopy rfl fun t hdev hcfg => ?_
    exact lineRecords_congr hdev (hcfg.trans hcopy.view.cfg.symm)
  case clear =>
    exact ranOn (exec_d3dClear hready p) ((onlyItems_refl _ _).storeAll fun _ => mem_clearItems) rfl fun _ _ _ => rfl
  case upload =>
    intro m hstate hlast j hj _
    exact ranOn (exec_lastImageData hready hj hstate hlast) (onlyItems_drawImage _) rfl fun _ _ _ => rfl

end Sys2Proof.Machine
end

section
/-! What executors store through any object (43_raster_classes.md R260, R267, R274, R275, R287, R300, 20_memory.md R86):
O39. -/
namespace Sys2Proof.Machine

open Sys2Proof

/-! ## Runs of stores -/

theorem grid_map {α β : Type} (g : α → β) (w h : Nat) (f : Nat → Nat → List α) :
    (grid w h f).map g = grid w h (fun i j => (f i j).map g) := by
  simp only [grid, List.map_flatMap]

/-- A run of stores in items that it does not move (R86). -/
theorem storeAll_stored {s : State} (hwf : s.dev.wf = true) {ws : List (Item × Word)}
    (hsteady : Steady s (ws.map (·.1))) (hsize : ∀ e ∈ ws, e.1.size ≤ 4) : Stored s (storeAll ws s) ws :=
  (stored_storeAll hwf hsteady ws (fun _ he => List.mem_map_of_mem he) hsize).2

/-- A row whose executor made the given stores. -/
theorem exec_stored {s e u : State} {i : Instr} {m p : Word} {f : Channel → Channel} {records : List DirtyRec}
    (hx : exec i s = .next (afterParam f (drew (resolved s m p) e records))) (he : e = u)
    {ws : List (Item × Word)} (hu : Stored s u ws) : ∃ t, exec i s = .next t ∧ Stored s t ws := ⟨_, hx, he ▸ hu⟩

/-! ## Fills, images and clears -/

theorem fillStores_size {s : State} {x0 y0 w h : Nat} {clipped : Bool} :
    ∀ e ∈ fillStores s x0 y0 w h clipped, e.1.size ≤ 4 := by
  intro e he
  obtain ⟨i, j, -, -, hmem⟩ := mem_grid.1 he
  obtain ⟨-, hone⟩ := List.mem_ite_nil_right.1 hmem
  rw [List.mem_singleton.1 hone]
  exact bppNow_le_four s

theorem uploadStores_size {s : State} {dx dy dw dh sw : Nat} : ∀ e ∈ uploadStores s dx dy dw dh sw, e.1.size ≤ 4 := by
  intro e he
  obtain ⟨i, j, -, -, hmem⟩ := mem_grid.1 he
  rw [List.mem_singleton.1 hmem]
  exact bppNow_le_four s

theorem clearItems_size {s : State} : ∀ c ∈ clearItems s, c.size ≤ 4 := by
  intro c hc
  rcases List.mem_append.1 hc with hcolor | hzeta
  · obtain ⟨i, j, -, -, hmem⟩ := mem_grid.1 hcolor
    rw [List.mem_singleton.1 hmem]
    exact bytesIn_le_four _ _
  · obtain ⟨i, j, -, -, hmem⟩ := mem_grid.1 hzeta
    rw [List.mem_singleton.1 hmem]
    exact bytesIn_le_four _ _

/-- A fill row, by a list that writes out its stores. -/
theorem exec_fill_stored {s : State} (hwf : s.dev.wf = true) (hb : s.bppNow ≠ 0) {i : Instr} {m p : Word}
    {x0 y0 w h : Nat} {clipped : Bool} {records : List DirtyRec}
    (hx : exec i s = .next (afterParam id
      (drew (resolved s m p) (drawn (fillPixels x0 y0 w h clipped) (handed s m p)) records)))
    {ws : List (Item × Word)} (hws : ws = fillStores s x0 y0 w h clipped) (hsteady : Steady s (ws.map (·.1))) :
    ∃ t, exec i s = .next t ∧ Stored s t ws := by
  subst hws
  have he : drawn (fillPixels x0 y0 w h clipped) (handed s m p)
      = storeAll (fillStores s x0 y0 w h clipped) (handed s m p) :=
    (drawn_pixels (s := handed s m p) hb _).trans (fillPixels_eq_storeAll x0 y0 w h clipped (handed s m p))
  exact exec_stored hx he (storeAll_stored (s := handed s m p) hwf hsteady fillStores_size)

/-- The stores of the drawing of an image whose last word is `q` (R267). -/
def imageStores (q : Word) (s : State) : List (Item × Word) :=
  let y := s.ch.ifc
  let k := s.cfg.packings
  grid (k.ifcSizeOut.fst y.sizeOut) (k.ifcSizeOut.snd y.sizeOut) (fun i j =>
    [(dstPixel s (k.ifcPoint.fst y.point + i) (k.ifcPoint.snd y.point + j),
      imagePixel (y.buf ++ [q]) s.bppNow (j * k.ifcSizeIn.fst y.sizeIn + i))])

theorem drawImage_stored {s : State} (hwf : s.dev.wf = true) (hb : s.bppNow ≠ 0) (q : Word)
    (hsteady : Steady s ((imageStores q s).map (·.1))) :
    Stored s (drawImage s (imageComplete q s)) (imageStores q s) := by
  let y := s.ch.ifc
  let k := s.cfg.packings
  have hstores : uploadStores (imageComplete q s) (k.ifcPoint.fst y.point) (k.ifcPoint.snd y.point)
      (k.ifcSizeOut.fst y.sizeOut) (k.ifcSizeOut.snd y.sizeOut) (k.ifcSizeIn.fst y.sizeIn) = imageStores q s := by
    simp only [uploadStores, dstPixel_imageComplete, imageComplete_bppNow, imageComplete_ch]
    rfl
  have he : drawImage s (imageComplete q s) = storeAll (imageStores q s) (imageComplete q s) := by
    rw [← hstores, ← uploadPixels_eq_storeAll]
    exact drawn_pixels (s := imageComplete q s) (by rw [imageComplete_bppNow]; exact hb) _
  rw [he]
  exact storeAll_stored (s := imageComplete q s) hwf hsteady (hstores ▸ uploadStores_size)

/-! ## Copies -/

/-- No item of `cs` covers a byte of the item `c` or of a word through which it is translated. -/
def SourceKept (s : State) (cs : List Item) (c : Item) : Prop :=
  ∀ d ∈ cs, ∀ a, d.covers s a →
    ¬ c.covers s a ∧ ∀ r ∈ xlateReads s c.obj c.off, a < r.toNat ∨ r.toNat + 4 ≤ a

/-- The value that an item of device memory holds. -/
def itemValue (s : State) (c : Item) : Word := devRead s (dmaXlate s c.obj c.off).2 c.size

/-- What a copy reads from an item that no store touches. -/
theorem OnlyItems.moveItem_eq {s u : State} {cs : List Item} (h : OnlyItems s cs u) (hwf : s.dev.wf = true)
    (hsteady : Steady s cs) {c : Item} (hdev : (dmaXlate s c.obj c.off).1 = .dev) (hc : SourceKept s cs c) (d : Item) :
    Machine.moveItem c d u = Machine.storeItem d (itemValue s c) u := by
  obtain ⟨-, hrest⟩ := h.dev hwf hsteady
  have hxlate : dmaXlate u c.obj c.off = dmaXlate s c.obj c.off := by
    refine dmaXlate_steady h.view.cfg fun r hr k hk => hrest _ fun d hd hcovers => ?_
    have := (hc d hd _ hcovers).2 r hr
    omega
  have hvalue : devRead u (dmaXlate s c.obj c.off).2 c.size = itemValue s c := by
    by_cases hin : (dmaXlate s c.obj c.off).2.toNat + c.size ≤ s.cfg.vramSize
    · refine devRead_congr h.view.cfg fun k hk => hrest _ fun d hd hcovers => ?_
      exact (hc d hd _ hcovers).1 ⟨hdev, hin, by omega, by omega⟩
    · rw [itemValue, devRead_out (Nat.lt_of_not_le hin), devRead_out (by rw [h.view.cfg]; exact Nat.lt_of_not_le hin)]
  rw [Machine.moveItem, dmaRead_dev_target (by rw [hxlate]; exact hdev), hxlate, hvalue]

/-- A double loop of moves whose sources no move touches is a run of stores of what the sources held before it. -/
theorem moves_stored {s : State} (hwf : s.dev.wf = true) {f : Nat → Nat → State → State} {w h : Nat}
    {src dst : Nat → Nat → Item} (hsize : ∀ i j, (dst i j).size ≤ 4)
    (hf : ∀ j i u, j < h → i < w → SameView s u → f j i u = moveItem (src i j) (dst i j) u) :
    let ms := grid w h (fun i j => [(src i j, dst i j)])
    (∀ e ∈ ms, (dmaXlate s e.1.obj e.1.off).1 = .dev) → Steady s (ms.map (·.2)) →
    (∀ e ∈ ms, ∀ c ∈ ms, ∀ a, c.2.covers s a →
      ¬ e.1.covers s a ∧ ∀ r ∈ xlateReads s e.1.obj e.1.off, a < r.toNat ∨ r.toNat + 4 ≤ a) →
    Stored s (loop h (fun j => loop w (f j)) s) (ms.map (fun e => (e.2, itemValue s e.1))) := by
  intro ms hdev hsteady hapart
  have hkept : ∀ e ∈ ms, SourceKept s (ms.map (·.2)) e.1 := fun e he => List.forall_mem_map.2 (hapart e he)
  have hmem : ∀ i j, i < w → j < h → (src i j, dst i j) ∈ ms :=
    fun i j hi hj => mem_grid.2 ⟨i, j, hi, hj, List.mem_singleton_self _⟩
  have hround : ∀ j i u, j < h → i < w → OnlyItems s (ms.map (·.2)) u →
      f j i u = storeAll [(dst i j, itemValue s (src i j))] u
        ∧ OnlyItems s (ms.map (·.2)) (storeAll [(dst i j, itemValue s (src i j))] u) := by
    intro j i u hj hi hu
    have he := hmem i j hi hj
    refine ⟨(hf j i u hj hi hu.view).trans (hu.moveItem_eq hwf hsteady (hdev _ he) (hkept _ he) _), ?_⟩
    exact hu.storeItem (List.mem_map_of_mem he) _
  rw [(loop_grid hround (onlyItems_refl s _)).1]
  have hstores : grid w h (fun i j => [(dst i j, itemValue s (src i j))]) = ms.map (fun e => (e.2, itemValue s e.1)) :=
    (grid_map (fun e : Item × Item => (e.2, itemValue s e.1)) w h fun i j => [(src i j, dst i j)]).symm
  rw [hstores]
  refine storeAll_stored hwf ?_ fun e he => ?_
  · rw [List.map_map]
    exact hsteady
  · obtain ⟨x, hx, rfl⟩ := List.mem_map.1 he
    obtain ⟨i, j, -, -, hone⟩ := mem_grid.1 hx
    rw [List.mem_singleton.1 hone]
    exact hsize i j

theorem copyRound_eq {s u : State} (hu : SameView s u) (sx sy dx dy w h jj ii : Nat) :
    copyRound sx sy dx dy w h jj ii u =
      let i := if sx < dx then w - 1 - ii else ii
      let j := if sy < dy then h - 1 - jj else jj
      moveItem (srcPixel s (sx + i) (sy + j)) (dstPixel s (dx + i) (dy + j)) u := by
  rw [copyRound, copyPixel_eq hu]
  simp only [scanPos, gt_iff_lt, decide_eq_true_eq]

/-- A round of a memory copy, with the offsets of its words as R287 writes them. -/
theorem copyWord_notifyStored {q : Word} {s u : State} (hu : SameView (modCh (notifyStored q) s) u) (l k : Nat) :
    copyWord l k u =
      let y := s.ch.m2mf
      moveItem ⟨y.srcObj, y.ofsIn + BitVec.ofNat 32 (l * y.pitchIn.toNat + 4 * k), 4⟩
        ⟨y.dstObj, y.ofsOut + BitVec.ofNat 32 (l * y.pitchOut.toNat + 4 * k), 4⟩ u := by
  rw [copyWord_eq hu, ch_modCh]
  simp only [srcWord, dstWord, offset, Nat.mul_comm 4]
  rfl

/-- Settles O39. -/
theorem executorsStoreThroughAnyObject : Obligations.ExecutorsStoreThroughAnyObject := by
  intro i p s hready hwf f b g u d m x k n pixel source color stores copies
  refine ⟨fun hb => ⟨?fill, ?clippedFill, ?upload, ?blit⟩, ?copy, ?clear⟩
  case fill =>
    exact exec_fill_stored hwf hb (exec_gdiUnclippedSize hready p i) rfl
  case clippedFill =>
    refine exec_fill_stored hwf hb (exec_gdiClippedPoint1 hready p i) ?_
    simp only [fillStores, fillSelects, insideClip_eq, Bool.not_true, Bool.false_or, decide_eq_true_eq]
    rfl
  case upload =>
    intro hstate hlast m j hj _ hsteady
    exact exec_stored (exec_lastImageData hready hj hstate hlast) rfl
      (drawImage_stored (s := handed s (n.ifcDataNumber m) p) hwf hb _ hsteady)
  case blit =>
    intro q w h sx sy dx dy hdev hsteady hapart
    have hstored := moves_stored (s := handed s (n.blitSize.setWidth 32) p) (f := copyRound sx sy dx dy w h) hwf
      (fun _ _ => bppNow_le_four s) (fun j i _ _ _ hu => copyRound_eq hu sx sy dx dy w h j i) hdev hsteady hapart
    exact exec_stored (exec_blitSize hready p) (drawn_pixels (s := handed s (n.blitSize.setWidth 32) p) hb _) hstored
  case copy =>
    intro hdev hsteady hapart
    let a : Word := n.m2mfBufferNotify.setWidth 32
    have hstored := moves_stored (s := modCh (notifyStored (paramValue s a p)) (handed s a p)) (f := copyWord) hwf
      (fun _ _ => le_refl 4) (fun l k _ _ _ hu => copyWord_notifyStored hu l k) hdev hsteady hapart
    exact exec_stored (exec_m2mfBufferNotify hready p) rfl hstored
  case clear =>
    intro q cb zb x0 y0 w h plane hsteady
    exact exec_stored (exec_d3dClear hready p) rfl (storeAll_stored (s := handed s (n.d3dClear.setWidth 32) p) hwf hsteady
      fun _ he => clearItems_size _ (mem_clearItems he))

end Sys2Proof.Machine
end

section
/-! The context switch (44_context_switch.md R310, R311, R315, 10_state.md R30): O43. -/
namespace Sys2Proof.Machine

open Sys2Proof

/-! ## Words that share no byte -/

/-- Two words of memory that share no byte. -/
@[reducible] def WordsApart (a b : Word) : Prop := a.toNat + 4 ≤ b.toNat ∨ b.toNat + 4 ≤ a.toNat

/-- Addresses wrap modulo 2^32, so a base keeps two words apart only when neither offset reaches half of that. -/
theorem wordsApart_add {x y : Word} (h : WordsApart x y) (hx : x.toNat < 2 ^ 31) (hy : y.toNat < 2 ^ 31) (b : Word) :
    WordsApart (b + x) (b + y) := by
  simp only [WordsApart, BitVec.toNat_add] at *
  omega

/-! ## Runs of word stores -/

/-- `DevWrite`s of words, one after another. -/
def writeWords : List (Word × Word) → State → State
  | [], s => s
  | e :: ws, s => writeWords ws (devWrite e.1 4 e.2 s)

theorem writeWords_cfg (ws : List (Word × Word)) (s : State) : (writeWords ws s).cfg = s.cfg := by
  induction ws generalizing s with
  | nil => rfl
  | cons e ws ih => exact (ih _).trans (devWrite_cfg _ _ _ _)

theorem getByte_writeWords_other {ws : List (Word × Word)} {s : State} (hwf : s.dev.wf = true) {a : Nat}
    (h : ∀ e ∈ ws, e.1.toNat + 4 ≤ s.cfg.vramSize → a < e.1.toNat ∨ e.1.toNat + 4 ≤ a) :
    getByte (writeWords ws s).dev a = getByte s.dev a := by
  induction ws generalizing s with
  | nil => rfl
  | cons e ws ih =>
    obtain ⟨hfirst, hrest⟩ := List.forall_mem_cons.1 h
    have hlater := ih (devWrite_wf hwf e.1 4 e.2) (by rwa [devWrite_cfg])
    refine hlater.trans ?_
    by_cases hin : e.1.toNat + 4 ≤ s.cfg.vramSize
    · exact getByte_devWrite_other hwf (hfirst hin)
    · rw [devWrite_out (Nat.lt_of_not_le hin)]

theorem devRead_writeWords_other {ws : List (Word × Word)} {s : State} (hwf : s.dev.wf = true) {a : Word}
    (h : ∀ x ∈ ws.map (·.1), WordsApart x a) : devRead (writeWords ws s) a 4 = devRead s a 4 := by
  refine devRead_congr (writeWords_cfg ws s) fun k hk => getByte_writeWords_other hwf fun e he _ => ?_
  have := h e.1 (List.mem_map_of_mem he)
  omega

/-- Stores that share no byte are all read back. -/
theorem devRead_writeWords_mem {ws : List (Word × Word)} {s : State} (hwf : s.dev.wf = true)
    (hapart : (ws.map (·.1)).Pairwise WordsApart) {e : Word × Word} (he : e ∈ ws)
    (hin : e.1.toNat + 4 ≤ s.cfg.vramSize) : devRead (writeWords ws s) e.1 4 = e.2 := by
  induction ws generalizing s with
  | nil => exact absurd he List.not_mem_nil
  | cons d ws ih =>
    obtain ⟨hfirst, hrest⟩ := List.pairwise_cons.1 hapart
    have hwf' := devWrite_wf hwf d.1 4 d.2
    rcases List.mem_cons.1 he with rfl | hlater
    · exact (devRead_writeWords_other hwf' fun x hx => (hfirst x hx).symm).trans (devRead_devWrite_same hwf hin)
    · exact ih hwf' hrest hlater (by rwa [devWrite_cfg])

theorem writeWords_out {ws : List (Word × Word)} {s : State}
    (h : ∀ x ∈ ws.map (·.1), s.cfg.vramSize < x.toNat + 4) : writeWords ws s = s := by
  induction ws with
  | nil => rfl
  | cons e ws ih =>
    obtain ⟨hfirst, hrest⟩ := List.forall_mem_cons.1 h
    rw [writeWords, devWrite_out hfirst]
    exact ih hrest

/-! ## The fields of a slot -/

/-- The offsets of the five saved fields (R310). -/
def fieldOffsets (f : FcOff) : List Word := [f.put, f.get, f.ref, f.dma, f.sema]

/-- The addresses of the five fields of a slot. -/
def slotFields (slot : Word) (f : FcOff) : List Word := (fieldOffsets f).map (slot + ·)

/-- The five words that a context switch stores into a slot (R311). -/
def savedWords (slot : Word) (f : FcOff) (l : Live) : List (Word × Word) :=
  [(slot + f.put, l.put), (slot + f.get, l.get), (slot + f.ref, l.ref), (slot + f.dma, l.dmaInstance),
   (slot + f.sema, l.semaphore)]

theorem savedWords_addresses (slot : Word) (f : FcOff) (l : Live) :
    (savedWords slot f l).map (·.1) = slotFields slot f := rfl

theorem saveLive_eq_writeWords (slot : Word) (s : State) :
    saveLive slot s = writeWords (savedWords slot s.cfg.fcOff s.live) s := rfl

/-- The five fields share no byte and lie inside their slot. -/
def FieldsFit (l : Layout) (f : FcOff) : Prop :=
  (fieldOffsets f).Pairwise WordsApart ∧ ∀ x ∈ fieldOffsets f, x.toNat + 4 ≤ (fcStride l).toNat

theorem fieldsFit_fcOffOf (l : Layout) : FieldsFit l (fcOffOf l) := by
  cases l <;> simp [FieldsFit, WordsApart, fieldOffsets, fcOffOf, fcStride]

theorem fcStride_toNat (l : Layout) : (fcStride l).toNat = 0x40 ∨ (fcStride l).toNat = 0x80 := by
  cases l with
  | pre => exact .inl rfl
  | post => exact .inr rfl

theorem slotFields_apart {l : Layout} {f : FcOff} (h : FieldsFit l f) (slot : Word) :
    (slotFields slot f).Pairwise WordsApart := by
  obtain ⟨hapart, hfit⟩ := h
  have hsmall : ∀ x ∈ fieldOffsets f, x.toNat < 2 ^ 31 := fun x hx => by
    have := hfit x hx
    have := fcStride_toNat l
    omega
  exact List.pairwise_map.2 (hapart.imp_of_mem fun hx hy hxy => wordsApart_add hxy (hsmall _ hx) (hsmall _ hy) slot)

/-- Where a field lies in the save area, as a number: 32 slots do not wrap. -/
theorem fieldOffset_toNat {l : Layout} (c : ChanId) {x : Word} (hx : x.toNat + 4 ≤ (fcStride l).toNat) :
    (chidWord c * fcStride l + x).toNat = c.toNat * (fcStride l).toNat + x.toNat := by
  have hc := c.isLt
  have hchid : (chidWord c).toNat = c.toNat := BitVec.toNat_setWidth_of_le (by decide)
  rw [BitVec.toNat_add, BitVec.toNat_mul, hchid]
  rcases fcStride_toNat l with hl | hl <;> rw [hl] at hx ⊢ <;> omega

/-- Fields of two slots share no byte. -/
theorem fields_of_slots_apart (s : State) {c n : ChanId} (hne : c ≠ n) {x y : Word}
    (hx : x.toNat + 4 ≤ (fcStride s.cfg.layout).toNat) (hy : y.toNat + 4 ≤ (fcStride s.cfg.layout).toNat) :
    WordsApart (slotAddr s c + x) (slotAddr s n + y) := by
  have hc := c.isLt
  have hn := n.isLt
  have hcn : c.toNat ≠ n.toNat := fun h => hne (BitVec.eq_of_toNat_eq h)
  have hcx := fieldOffset_toNat c hx
  have hny := fieldOffset_toNat n hy
  simp only [slotAddr, BitVec.add_assoc]
  generalize s.cfg.layout = l at *
  rcases fcStride_toNat l with hl | hl <;> rw [hl] at hx hy hcx hny <;>
    exact wordsApart_add (by omega) (by omega) (by omega) _

/-! ## Saving into a slot -/

/-- The five fields hold what was saved, those that lie in device memory. -/
theorem devRead_saveLive_mem {s : State} (hwf : s.dev.wf = true) (hfit : FieldsFit s.cfg.layout s.cfg.fcOff)
    {slot : Word} {e : Word × Word} (he : e ∈ savedWords slot s.cfg.fcOff s.live)
    (hin : e.1.toNat + 4 ≤ s.cfg.vramSize) : devRead (saveLive slot s) e.1 4 = e.2 := by
  rw [saveLive_eq_writeWords]
  refine devRead_writeWords_mem hwf ?_ he hin
  rw [savedWords_addresses]
  exact slotFields_apart hfit slot

theorem getByte_saveLive_other {s : State} (hwf : s.dev.wf = true) {slot : Word} {a : Nat}
    (h : ∀ x ∈ slotFields slot s.cfg.fcOff, x.toNat + 4 ≤ s.cfg.vramSize → a < x.toNat ∨ x.toNat + 4 ≤ a) :
    getByte (saveLive slot s).dev a = getByte s.dev a := by
  rw [← savedWords_addresses slot _ s.live] at h
  rw [saveLive_eq_writeWords]
  exact getByte_writeWords_other hwf fun e he => h e.1 (List.mem_map_of_mem he)

/-- A slot outside device memory keeps nothing (R74). -/
theorem saveLive_out {s : State} {slot : Word}
    (h : ∀ x ∈ slotFields slot s.cfg.fcOff, s.cfg.vramSize < x.toNat + 4) : saveLive slot s = s := by
  rw [← savedWords_addresses slot _ s.live] at h
  exact (saveLive_eq_writeWords slot s).trans (writeWords_out h)

/-! ## Loading a slot -/

theorem loadLive_congr {s u : State} {slot : Word} (hcfg : u.cfg = s.cfg)
    (h : ∀ a ∈ slotFields slot s.cfg.fcOff, devRead u a 4 = devRead s a 4) : loadLive slot u = loadLive slot s := by
  simp only [slotFields, fieldOffsets, List.map_cons, List.map_nil, List.forall_mem_cons] at h
  obtain ⟨hput, hget, href, hdma, hsema, -⟩ := h
  simp only [loadLive, hcfg, hput, hget, href, hdma, hsema]

/-- A slot outside device memory loads zeros (R73). -/
theorem loadLive_out {s : State} {slot : Word}
    (h : ∀ x ∈ slotFields slot s.cfg.fcOff, s.cfg.vramSize < x.toNat + 4) :
    loadLive slot s = { put := 0, get := 0, ref := 0, dmaInstance := 0, semaphore := 0 } := by
  simp only [slotFields, fieldOffsets, List.map_cons, List.map_nil, List.forall_mem_cons] at h
  obtain ⟨hput, hget, href, hdma, hsema, -⟩ := h
  simp only [loadLive, devRead_out hput, devRead_out hget, devRead_out href, devRead_out hdma, devRead_out hsema]

/-- Saving into one slot leaves what another loads. -/
theorem loadLive_saveLive_other {s : State} (hwf : s.dev.wf = true) (hfit : FieldsFit s.cfg.layout s.cfg.fcOff)
    {c n : ChanId} (hne : c ≠ n) :
    loadLive (slotAddr s n) (saveLive (slotAddr s c) s) = loadLive (slotAddr s n) s := by
  obtain ⟨-, hinside⟩ := hfit
  rw [saveLive_eq_writeWords]
  refine loadLive_congr (writeWords_cfg _ s) fun a ha => devRead_writeWords_other hwf fun b hb => ?_
  obtain ⟨y, hy, rfl⟩ := List.mem_map.1 ha
  rw [savedWords_addresses] at hb
  obtain ⟨x, hx, rfl⟩ := List.mem_map.1 hb
  exact fields_of_slots_apart s hne (hinside x hx) (hinside y hy)

/-! ## The switch -/

theorem contextSwitch_cur (n : ChanId) (s : State) : (contextSwitch n s).cur = n := by
  simp [contextSwitch, State.cur, chidWord]

/-- The bytes that a context switch leaves are those of its stores. -/
theorem contextSwitch_dev (n : ChanId) (s : State) : (contextSwitch n s).dev = (saveLive (slotAddr s s.cur) s).dev := by
  rw [contextSwitch]

theorem contextSwitch_live {s : State} (hwf : s.dev.wf = true) (hfit : FieldsFit s.cfg.layout s.cfg.fcOff)
    {n : ChanId} (hne : n ≠ s.cur) : (contextSwitch n s).live = loadLive (slotAddr s n) s := by
  rw [contextSwitch, loadLive_saveLive_other hwf hfit hne.symm]

theorem devRead_contextSwitch (n : ChanId) (s : State) (a : Word) :
    devRead (contextSwitch n s) a 4 = devRead (saveLive (slotAddr s s.cur) s) a 4 := by
  have hcfg : (contextSwitch n s).cfg = (saveLive (slotAddr s s.cur) s).cfg := by rw [contextSwitch]
  exact devRead_congr hcfg fun k _ => by rw [contextSwitch_dev]

/-- `FC_BASE` by the field of R30. -/
theorem ramfcOf_address (l : Layout) (v : Word) :
    (ramfcOf l).address v = match l with
      | .pre => (v &&& 0xFFFF) <<< 8
      | .post => (v &&& 0xFFFF) <<< 16 := by
  cases l <;> simp [BaseField.address, BitField.get, ramfcOf]

/-- The table of R310, with the offset of the semaphore as its only entry that depends on the layout. -/
theorem fcOffOf_eq (l : Layout) :
    fcOffOf l = { put := 0, get := 4, ref := 8, dma := 12, sema := match l with | .pre => 0x2C | .post => 0x30 } := by
  cases l <;> rfl

/-- Settles O43: the stores are a run of five words that share no byte with each other or with the incoming slot. -/
theorem contextSwitchMovesFiveFields : Obligations.ContextSwitchMovesFiveFields := by
  intro s n hwf hne f base stride sema slot o i t
  refine ⟨fun hf => ?base, contextSwitch_cur n s, contextSwitch_frame n s, fun hoff => ?fields⟩
  case base => exact (congrArg (·.address s.ctl.ramfc) hf).trans (ramfcOf_address _ _)
  case fields =>
    have hfit : FieldsFit s.cfg.layout s.cfg.fcOff := by
      rw [show s.cfg.fcOff = fcOffOf s.cfg.layout from hoff.trans (fcOffOf_eq _).symm]
      exact fieldsFit_fcOffOf _
    have hfields : ∀ a, slotFields a s.cfg.fcOff = [a, a + 4, a + 8, a + 12, a + sema] := fun a => by
      simp only [slotFields, fieldOffsets, hoff, List.map_cons, List.map_nil, add_zero]
    have hsaved : savedWords o s.cfg.fcOff s.live
        = [(o, s.live.put), (o + 4, s.live.get), (o + 8, s.live.ref), (o + 12, s.live.dmaInstance),
          (o + sema, s.live.semaphore)] := by
      simp only [savedWords, hoff, add_zero]
    have hlive : t.live = loadLive i s := contextSwitch_live hwf hfit hne
    rw [← hfields o, ← hfields i, ← hsaved]
    refine ⟨?loaded, fun e he hin => ?stored, fun a ha => ?frame, fun hout => ?unsaved, fun hout => ?unloaded⟩
    case loaded =>
      rw [hlive]
      simp only [loadLive, hoff, add_zero]
    case stored => exact (devRead_contextSwitch n s e.1).trans (devRead_saveLive_mem hwf hfit he hin)
    case frame => exact (congrArg (getByte · a) (contextSwitch_dev n s)).trans (getByte_saveLive_other hwf ha)
    case unsaved => exact (contextSwitch_dev n s).trans (congrArg (·.dev) (saveLive_out hout))
    case unloaded => exact hlive.trans (loadLive_out hout)

end Sys2Proof.Machine
end

section
/-! Host accesses and the other ports (45_host_access.md R321 to R324, R346 to R349, 60_exceptions.md R371): O46, O47 and
O53. -/
namespace Sys2Proof.Machine

open Sys2Proof

/-! ## Steps outside a drain, a lemma per kind -/

/-- Between two accesses a step takes the next input. -/
theorem step_input {s : State} {i : Input} {is : List Input} (htasks : s.tasks = []) (hin : s.inputs = i :: is) :
    step s = .next (takeInput i { s with inputs := is }) := by
  have hidle : idleStep s = takeInput i { s with inputs := is } := by simp only [idleStep, hin]
  rw [← hidle, step, htasks]

/-- Inside a host write a step does the next word operation. -/
theorem step_word {s : State} {a : Nat} {v m : Word} {ts : List Task} (htasks : s.tasks = .word a v m :: ts) :
    step s = .next (writeWord a v m { s with tasks := ts }) := by
  rw [step, htasks]

/-! ## The words of a host access -/

/-- An access touches the aligned words that hold one of its bytes; three are enough for eight bytes (R322). -/
theorem mem_touched {a n w : Nat} (hn : n ≤ 8) : w ∈ touched a n ↔ w % 4 = 0 ∧ w < a + n ∧ a < w + 4 := by
  simp only [touched, List.mem_filterMap, List.mem_range, Option.ite_none_right_eq_some, Option.some.injEq]
  constructor
  · rintro ⟨k, hk, hlt, rfl⟩
    omega
  · rintro ⟨haligned, hlt, hgt⟩
    exact ⟨(w - a / 4 * 4) / 4, by omega, by omega, by omega⟩

/-- The words of an access ascend (R322). -/
theorem touched_ascending (a n : Nat) : (touched a n).Pairwise (· < ·) := by
  refine List.pairwise_lt_range.filterMap _ fun i j hij x hx y hy => ?_
  simp only [Option.ite_none_right_eq_some, Option.some.injEq] at hx hy
  omega

/-- Settles O46: the words are the touched ones, each with its lanes. -/
theorem hostWriteSplitsIntoWords : Obligations.HostWriteSplitsIntoWords := by
  intro s is a size data htasks hin n
  have hn : n ≤ 8 := size.isLt
  refine ⟨(touched a.toNat n).map fun w => (w, laneData a.toNat n data w, laneMask a.toNat n w),
    ?queued, ?ascending, ?covered, ?lanes⟩
  case queued =>
    rw [step_input htasks hin]
    simp only [takeInput, htasks, writeOps, List.append_nil, List.map_map]
    rfl
  case ascending => exact List.pairwise_map.2 (touched_ascending a.toNat n)
  case covered =>
    intro b hle hlt
    have hword : b / 4 * 4 ∈ touched a.toNat n := (mem_touched hn).2 (by omega)
    exact ⟨_, List.mem_map_of_mem hword, rfl⟩
  case lanes =>
    intro x hx
    obtain ⟨w, hw, rfl⟩ := List.mem_map.1 hx
    obtain ⟨haligned, hlt, hgt⟩ := (mem_touched hn).1 hw
    refine ⟨haligned, hlt, hgt, fun k hk => ?_⟩
    simp only [byteOf_laneData _ _ _ _ hk, byteOf_laneMask _ _ _ hk]
    exact ⟨fun hin => by simp only [if_pos hin, and_self], fun hout => by simp only [if_neg hout, and_self]⟩

/-! ## What a word reads as, a lemma per place -/

section
variable {s : State} {w : Nat}

theorem readWord_reg {r : Reg} (h : place s.cfg w = .reg r) : readWord s w = regGet s r := by rw [readWord, h]

theorem readWord_object {d : Nat} (h : place s.cfg w = .object d) : readWord s w = devRead s (BitVec.ofNat 32 d) 4 := by
  rw [readWord, h]

theorem readWord_shadow {c : ChanId} {f : Shadow} (h : place s.cfg w = .shadow c f) :
    readWord s w = if c = s.cur then liveField s f else devRead s (slotAddr s c + savedField s.cfg f) 4 := by
  rw [readWord, h]

theorem readWord_nothing (h : place s.cfg w = .nothing) : readWord s w = 0 := by rw [readWord, h]

end

/-- The answer to a host read has the byte of each of its addresses, and zeros above (R322). -/
theorem byteOf_hostAnswer (s : State) (a n k : Nat) (hn : n ≤ 8) :
    byteOf (BitVec.ofNat 64 (hostRead s a n)).toNat k = if k < n then readByteAt s (a + k) else 0 := by
  have hlt : hostRead s a n < 2 ^ 64 :=
    calc hostRead s a n < 256 ^ n := hostRead_lt s a n
      _ ≤ 256 ^ 8 := Nat.pow_le_pow_right (by decide) hn
      _ = 2 ^ 64 := by decide
  rw [BitVec.toNat_ofNat, Nat.mod_eq_of_lt hlt, byteOf_hostRead]

/-- Settles O47: the answer byte by byte, then what each place reads as. -/
theorem hostReadHasNoEffect : Obligations.HostReadHasNoEffect := by
  intro s is a size htasks hin
  refine ⟨⟨_, step_input htasks hin, fun k _ => ?answer⟩, fun w => ⟨readWord_nothing,
    fun h => readWord_nothing (place_beyond h), readWord_reg, fun _ => readWord_reg, fun _ => readWord_object⟩⟩
  case answer =>
    rw [byteOf_hostAnswer _ _ _ _ size.isLt]
    simp only [Nat.lt_succ_iff]
    rfl

/-! ## The other ports -/

/-- `ExtRaise` sets bits of one status register (R347, R371). -/
theorem extRaise_ctl (x : ExtReg) (bits : Word) (s : State) :
    (extRaise x bits s).ctl = match x with
      | .busIntr => { s.ctl with busIntr := s.ctl.busIntr ||| bits }
      | .fifoIntr => { s.ctl with fifoIntr := s.ctl.fifoIntr ||| bits }
      | .grIntr => { s.ctl with grIntr := s.ctl.grIntr ||| bits }
      | .crtcIntr => { s.ctl with crtcIntr := s.ctl.crtcIntr ||| bits }
      | .grNsource => { s.ctl with grNsource := s.ctl.grNsource ||| bits } := by
  cases x <;> rfl

/-- `ExtRaise` changes control registers, presents the line, and does nothing else. -/
theorem extRaise_frame (x : ExtReg) (bits : Word) (s : State) :
    extRaise x bits s = { s with ctl := (extRaise x bits s).ctl
                                 irqOut := s.irqOut ++ [irqLine s.cfg.bits (extRaise x bits s).ctl] } := by
  cases x <;> rfl

/-- `PendTake` finds the queue empty (R346). -/
theorem pendTake_nil {s : State} (h : s.pendq = []) : pendTake s = { s with replies := s.replies ++ [.pend none] } := by
  rw [pendTake, h]
  rfl

/-- `PendTake` takes the oldest entry (R346). -/
theorem pendTake_cons {s : State} {e : PendEntry} {q : List PendEntry} (h : s.pendq = e :: q) :
    pendTake s = { s with pendq := q, replies := s.replies ++ [.pend (some e)] } := by
  rw [pendTake, h]
  rfl

/-- Settles O53, port by port. -/
theorem otherPorts : Obligations.OtherPorts := by
  intro s is htasks
  refine ⟨fun x bits hin => ⟨_, step_input htasks hin, extRaise_ctl x bits _, extRaise_frame x bits _⟩,
    fun hin => ⟨fun hnone => ?empty, fun e q hq => ?oldest⟩, fun hin => step_input htasks hin,
    fun b hin => step_input htasks hin⟩
  case empty =>
    rw [step_input htasks hin]
    exact congrArg _ (pendTake_nil hnone)
  case oldest =>
    rw [step_input htasks hin]
    exact congrArg _ (pendTake_cons hq)

end Sys2Proof.Machine
end

section
/-! The two apertures (45_host_access.md R324, R333 to R335): O50 and O51. -/
namespace Sys2Proof.Machine

open Sys2Proof

/-! ## Word operations, a lemma per place -/

section
variable {s : State} {a : Nat}

theorem writeWord_object {d : Nat} (h : place s.cfg a = .object d) (v m : Word) :
    writeWord a v m s = objectWrite d v m s := by rw [writeWord, h]

theorem writeWord_put {c : ChanId} (h : place s.cfg a = .shadow c .put) (v m : Word) :
    writeWord a v m s = putWrite c v m s := by rw [writeWord, h]

/-- Get, ref-count and what is not in this block ignore writes (R321, R334). -/
theorem writeWord_ignored {c : ChanId}
    (h : place s.cfg a = .shadow c .get ∨ place s.cfg a = .shadow c .ref ∨ place s.cfg a = .nothing) (v m : Word) :
    writeWord a v m s = s := by
  rw [writeWord]
  obtain h | h | h := h <;> rw [h]

end

/-! ## The put location -/

/-- The put location of the current channel sets the cursor and starts a drain (R335). -/
theorem putWrite_current {c : ChanId} {s : State} (h : c = s.cur) (v m : Word) :
    putWrite c v m s = { s with tasks := .drain :: s.tasks, live := { s.live with put := merge s.live.put v m } } := by
  rw [putWrite, if_pos h]
  rfl

/-- That of another channel is stored in its save slot (R335). -/
theorem putWrite_saved {c : ChanId} {s : State} (h : c ≠ s.cur) (v m : Word) :
    putWrite c v m s = devWrite (slotAddr s c + s.cfg.fcOff.put) 4
      (merge (devRead s (slotAddr s c + s.cfg.fcOff.put) 4) v m) s := by
  rw [putWrite, if_neg h]

/-- A word store: read back where it lies in device memory, dropped elsewhere, and no other byte touched (R74). -/
theorem devWrite_word {s : State} (hwf : s.dev.wf = true) (x v : Word) :
    (inVram s.cfg x 4 = true → devRead (devWrite x 4 v s) x 4 = v)
      ∧ (inVram s.cfg x 4 = false → (devWrite x 4 v s).dev = s.dev)
      ∧ ∀ b, (b < x.toNat ∨ x.toNat + 4 ≤ b) → getByte (devWrite x 4 v s).dev b = getByte s.dev b := by
  refine ⟨fun hin => devRead_devWrite_same hwf ((inVram_iff s.cfg x 4).1 hin), fun hout => ?_,
    fun b hb => getByte_devWrite_other hwf hb⟩
  have hbeyond : s.cfg.vramSize < x.toNat + 4 := by rwa [← Nat.not_le, ← inVram_iff, Bool.not_eq_true]
  rw [devWrite_out hbeyond]

/-- Settles O50: the put location of the current channel and of another, the ignored places, the reads. -/
theorem channelAperture : Obligations.ChannelAperture := by
  intro s ts a v m c htasks
  refine ⟨fun hplace hcur => ?current, fun hwf hplace hne => ?saved, fun hplace => ?ignored, fun w f hplace => ?reads⟩
  case current =>
    rw [step_word htasks, writeWord_put (s := { s with tasks := ts }) hplace]
    exact congrArg _ (putWrite_current (s := { s with tasks := ts }) hcur v m)
  case saved =>
    intro x
    have hput : writeWord a v m { s with tasks := ts }
        = devWrite x 4 (merge (devRead s x 4) v m) { s with tasks := ts } :=
      (writeWord_put (s := { s with tasks := ts }) hplace v m).trans (putWrite_saved (s := { s with tasks := ts }) hne v m)
    rw [step_word htasks, hput]
    exact ⟨_, rfl, devWrite_frame _ _ _ _, devWrite_word (s := { s with tasks := ts }) hwf x _⟩
  case ignored => rw [step_word htasks, writeWord_ignored (s := { s with tasks := ts }) hplace]
  case reads =>
    rw [readWord_shadow hplace]
    cases f <;> rfl

/-! ## The object-table aperture -/

/-- The object-table aperture lies in the register space, so an address in it does not wrap. -/
theorem object_lt {cfg : Config} {a d : Nat} (h : place cfg a = .object d) : d < 0x1000000 := by
  unfold place at h
  split at h
  · cases h
  · split at h
    · cases h
    · split at h
      · cases h
        omega
      · split at h
        · split at h <;> cases h
        · cases h

/-- Byte `k` of the aperture's word at `d` is one that a write of the lanes `m` stores (R324). -/
def LaneWritten (s : State) (d : Nat) (m : Word) (k b : Nat) : Prop :=
  b = d + k ∧ byteOf m.toNat k ≠ 0 ∧ d + k < s.cfg.vramSize

/-- What one lane of a write through the aperture does. -/
theorem getByte_laneWrite {s : State} (hwf : s.dev.wf = true) {d k : Nat} (hd : d + k < 2 ^ 32) (v : Byte) (b : Nat) :
    getByte (devWrite (BitVec.ofNat 32 (d + k)) 1 (v.setWidth 32) s).dev b
      = if b = d + k ∧ d + k < s.cfg.vramSize then v else getByte s.dev b := by
  have haddr : (BitVec.ofNat 32 (d + k)).toNat = d + k := by rw [BitVec.toNat_ofNat, Nat.mod_eq_of_lt hd]
  have hbyte : byteOf (v.setWidth 32 : Word).toNat 0 = v := by
    simpa using byteOf_lane v (j := 0) (k := 0) (by decide) (by decide)
  by_cases hb : b = d + k
  · subst hb
    by_cases hin : d + k < s.cfg.vramSize
    · have hsame := getByte_devWrite_same hwf (a := BitVec.ofNat 32 (d + k)) (v := v.setWidth 32) (n := 1) (k := 0)
        (by omega) (by decide)
      rw [haddr, hbyte] at hsame
      rw [if_pos ⟨rfl, hin⟩]
      exact hsame
    · rw [if_neg fun h => hin h.2, devWrite_out (by omega)]
  · rw [if_neg fun h => hb h.1, getByte_devWrite_other hwf (by omega)]

/-- A write through the object-table aperture stores its lanes, those that lie in device memory, and leaves every other
byte (R324). -/
theorem objectWrite_bytes {s : State} (hwf : s.dev.wf = true) {d : Nat} (hd : d < 0x1000000) (v m : Word) :
    (∀ k, k < 4 → LaneWritten s d m k (d + k) → getByte (objectWrite d v m s).dev (d + k) = byteOf v.toNat k)
      ∧ ∀ b, (∀ k, k < 4 → ¬ LaneWritten s d m k b) → getByte (objectWrite d v m s).dev b = getByte s.dev b := by
  have hloop := loop_writes (s := s) (G := fun u => u.cfg = s.cfg ∧ u.dev.wf = true) (B := LaneWritten s d m)
    (val := fun b => byteOf v.toNat (b - d)) (f := fun k u =>
      if byteOf m.toNat k ≠ 0 then devWrite (BitVec.ofNat 32 (d + k)) 1 ((byteOf v.toNat k).setWidth 32) u else u) 4
    (fun k u hk hu _ => ?round) ⟨rfl, hwf⟩
  case round =>
    obtain ⟨hcfg, hwfu⟩ := hu
    split
    case isTrue hlane =>
      refine ⟨⟨(devWrite_cfg _ _ _ _).trans hcfg, devWrite_wf hwfu _ _ _⟩, fun b hb => ?_, fun b hb => ?_⟩
      · obtain ⟨rfl, -, hin⟩ := hb
        rw [getByte_laneWrite hwfu (by omega), hcfg, if_pos ⟨rfl, hin⟩, Nat.add_sub_cancel_left]
      · rw [getByte_laneWrite hwfu (by omega), hcfg, if_neg fun h => hb ⟨h.1, hlane, h.2⟩]
    case isFalse hlane => exact ⟨⟨hcfg, hwfu⟩, fun b hb => absurd hb.2.1 hlane, fun _ _ => rfl⟩
  obtain ⟨-, hwritten, hkept⟩ := hloop
  refine ⟨fun k hk hlane => ?_, hkept⟩
  have hbyte := hwritten (d + k) ⟨k, hk, hlane⟩
  rwa [Nat.add_sub_cancel_left] at hbyte

/-- A byte of a word inside device memory. -/
theorem byteOf_devRead {s : State} {a : Word} {k : Nat} (hk : k < 4) (h : a.toNat + 4 ≤ s.cfg.vramSize) :
    byteOf (devRead s a 4).toNat k = getByte s.dev (a.toNat + k) := by
  rw [devRead_toNat (le_refl 4) h, byteOf_readLE hk]

/-- The lanes of a host write are whole bytes (R322). -/
theorem byteOf_laneMask_cases (a n w : Nat) {k : Nat} (hk : k < 4) :
    byteOf (laneMask a n w).toNat k = 0 ∨ byteOf (laneMask a n w).toNat k = 0xFF := by
  rw [byteOf_laneMask _ _ _ hk]
  split
  · exact .inr rfl
  · exact .inl rfl

/-- A whole byte is merged in or not at all. -/
theorem byteOf_merge_lane {old v m : Word} {k : Nat} (hk : k < 4)
    (hm : byteOf m.toNat k = 0 ∨ byteOf m.toNat k = 0xFF) :
    byteOf (merge old v m).toNat k = if byteOf m.toNat k ≠ 0 then byteOf v.toNat k else byteOf old.toNat k := by
  rw [byteOf_merge _ _ _ hk]
  have hones : ∀ x : Byte, x &&& 0xFF#8 = x := fun _ => BitVec.and_allOnes
  obtain hm | hm := hm <;> rw [hm] <;> simp [hones]

/-- A word of the aperture reads back merged (R324). -/
theorem devRead_objectWrite {s : State} (hwf : s.dev.wf = true) {d : Nat} (hd : d < 0x1000000)
    (hin : d + 4 ≤ s.cfg.vramSize) {v m : Word}
    (hm : ∀ k, k < 4 → byteOf m.toNat k = 0 ∨ byteOf m.toNat k = 0xFF) :
    devRead (objectWrite d v m s) (BitVec.ofNat 32 d) 4 = merge (devRead s (BitVec.ofNat 32 d) 4) v m := by
  have haddr : (BitVec.ofNat 32 d).toNat = d := by rw [BitVec.toNat_ofNat, Nat.mod_eq_of_lt (by omega)]
  have hcfg : (objectWrite d v m s).cfg = s.cfg := by rw [objectWrite_frame]
  obtain ⟨hwritten, hkept⟩ := objectWrite_bytes hwf hd v m
  refine word_ext fun k hk => ?_
  rw [byteOf_merge_lane hk (hm k hk), byteOf_devRead hk (by rwa [haddr, hcfg]), byteOf_devRead hk (by rwa [haddr]), haddr]
  split
  case isTrue hlane => exact hwritten k hk ⟨rfl, hlane, by omega⟩
  case isFalse hlane =>
    refine hkept _ fun j _ hj => hlane ?_
    obtain ⟨heq, hne, -⟩ := hj
    rwa [show k = j by omega]

/-- Settles O51, from the bytes of a write through the aperture. -/
theorem objectAperture : Obligations.ObjectAperture := by
  intro s ts a n w data d htasks hplace hwf v m
  have hd := object_lt hplace
  obtain ⟨hwritten, hkept⟩ := objectWrite_bytes (s := { s with tasks := ts }) hwf hd v m
  refine ⟨objectWrite d v m { s with tasks := ts }, ?stepped, objectWrite_frame d v m _,
    fun k hk hin hlane => hwritten k hk ⟨rfl, hlane, hin⟩, fun b hb => hkept b fun k hk hlane => ?other, fun hin => ?merged⟩
  case stepped => rw [step_word htasks, writeWord_object (s := { s with tasks := ts }) hplace]
  case other =>
    obtain ⟨heq, hne, -⟩ := hlane
    exact hb k hk hne heq
  case merged =>
    have hplace' : place (objectWrite d v m { s with tasks := ts }).cfg w = .object d := by
      rw [objectWrite_frame]
      exact hplace
    rw [readWord_object hplace', readWord_object hplace]
    exact devRead_objectWrite (s := { s with tasks := ts }) hwf hd hin fun k hk => byteOf_laneMask_cases a n w hk

end Sys2Proof.Machine
end

section
/-! The tick (45_host_access.md R343, R344, 44_context_switch.md R313): O44 and O45. -/
namespace Sys2Proof.Machine

open Sys2Proof

/-! ## Rounds of the tick -/

/-- A channel is pending while its two cursors differ (R344). -/
theorem pending_iff (s : State) (c : ChanId) :
    pending s c = true ↔ (if c = s.cur then s.live.get else devRead s (slotAddr s c + s.cfg.fcOff.get) 4)
      ≠ if c = s.cur then s.live.put else devRead s (slotAddr s c + s.cfg.fcOff.put) 4 := by
  unfold pending
  split <;> exact bne_iff_ne

theorem tickRound_pending {s : State} {c : ChanId} (h : pending s c = true) (ts : List Task) :
    tickRound c.toNat ts s = { makeCurrent c s with tasks := .drain :: .tick (c.toNat + 1) :: ts } := by
  rw [tickRound_chan, if_pos h]

theorem tickRound_not_pending {s : State} {c : ChanId} (h : ¬ pending s c = true) (ts : List Task) :
    tickRound c.toNat ts s = { s with tasks := .tick (c.toNat + 1) :: ts } := by
  rw [tickRound_chan, if_neg h]

theorem makeCurrent_cur {c : ChanId} {s : State} (h : c = s.cur) : makeCurrent c s = s := if_pos h

theorem makeCurrent_other {c : ChanId} {s : State} (h : c ≠ s.cur) : makeCurrent c s = contextSwitch c s := if_neg h

/-- Clearing the flag clears its bit and does nothing else (R31). -/
theorem clearAcquire_eq (s : State) :
    clearAcquire s
      = { s with ctl := { s.ctl with acquire := s.ctl.acquire &&& ~~~((1 : Word) <<< s.cfg.bits.acquire.val) } } := by
  rw [clearAcquire, bitMask_eq_shiftLeft]

/-- Inside a tick a step is one round. -/
theorem step_tick {s : State} {k : Nat} {ts : List Task} (htasks : s.tasks = .tick k :: ts) :
    step s = .next (tickRound k ts s) := by
  rw [step, htasks]

/-- With the flag clear a tick does nothing (R343). -/
theorem step_tick_clear {s : State} {is : List Input} (htasks : s.tasks = []) (hin : s.inputs = .tick :: is)
    (hflag : s.ctl.acquire.getLsbD s.cfg.bits.acquire = false) : step s = .next { s with inputs := is } := by
  rw [step_input htasks hin]
  simp only [takeInput, startTick, acquireFlag, hflag, Bool.false_eq_true, if_false]

/-- With the flag set a tick begins with channel 0 (R343). -/
theorem step_tick_set {s : State} {is : List Input} (htasks : s.tasks = []) (hin : s.inputs = .tick :: is)
    (hflag : s.ctl.acquire.getLsbD s.cfg.bits.acquire = true) :
    step s = .next { s with inputs := is, tasks := [.tick 0] } := by
  rw [step_input htasks hin]
  simp only [takeInput, startTick, acquireFlag, hflag, if_true, htasks]

/-- Settles O44: the start of a tick, its last round, and its round on a channel. -/
theorem tickVisitsChannels : Obligations.TickVisitsChannels := by
  intro s is ts
  refine ⟨fun htasks hin => ⟨step_tick_clear htasks hin, step_tick_set htasks hin⟩, fun k htasks hk => ?last,
    fun c htasks => ?channel⟩
  case last => rw [step_tick htasks, tickRound_end hk, clearAcquire_eq]
  case channel =>
    intro a get put
    have hpending : pending s c = true ↔ get ≠ put := pending_iff s c
    refine ⟨fun heq => ?passed, fun hne hcur => ?current, fun hne hother => ?other⟩
    case passed => rw [step_tick htasks, tickRound_not_pending (fun h => hpending.1 h heq)]
    case current => rw [step_tick htasks, tickRound_pending (hpending.2 hne), makeCurrent_cur hcur]
    case other => rw [step_tick htasks, tickRound_pending (hpending.2 hne), makeCurrent_other hother]

/-! ## A tick with no work -/

/-- A run of several steps begins with one. -/
theorem run_succ {s t : State} (h : step s = .next t) (n : Nat) :
    Host.Core.run Sys2Proof.core (n + 1) s = Host.Core.run Sys2Proof.core n t := by
  have hcore : Sys2Proof.core.step s = .next t := h
  simp only [Host.Core.run, hcore]

/-- From channel `k` on, with `n` channels to go and none of them pending, a tick ends with the flag cleared. -/
theorem run_idle_rounds (n : Nat) {k : Nat} {s : State} {ts : List Task} (hk : k + n = 32)
    (htasks : s.tasks = .tick k :: ts) (hidle : ∀ c : ChanId, pending s c = false) :
    Host.Core.run Sys2Proof.core (n + 1) s = .next (clearAcquire { s with tasks := ts }) := by
  induction n generalizing k s with
  | zero =>
    rw [run_succ (step_tick htasks), tickRound_end (by omega)]
    rfl
  | succ n ih =>
    have hchan : (BitVec.ofNat 5 k : ChanId).toNat = k := by
      rw [BitVec.toNat_ofNat, Nat.mod_eq_of_lt (by omega)]
    have hround : tickRound k ts s = { s with tasks := .tick (k + 1) :: ts } := by
      have hpass := tickRound_not_pending (c := BitVec.ofNat 5 k) (s := s) (by simp [hidle]) ts
      rwa [hchan] at hpass
    rw [run_succ (step_tick htasks), hround]
    exact ih (by omega) rfl hidle

/-- Settles O45: one step starts the tick, 32 pass over the channels, one clears the flag. -/
theorem idleTickClearsTheFlag : Obligations.IdleTickClearsTheFlag := by
  intro s is htasks hin hflag hidle
  rw [run_succ (step_tick_set htasks hin hflag) 33,
    run_idle_rounds 32 (s := { s with inputs := is, tasks := [.tick 0] }) rfl rfl hidle, clearAcquire_eq, ← htasks]

end Sys2Proof.Machine
end

section
/-! Unimplemented register bits stay 0 (45_host_access.md R326, 10_state.md R23, R29 to R31, R33): O56. -/
namespace Sys2Proof.Machine

open Sys2Proof

/-! ## Registers without their unimplemented bits -/

/-- A value with none of a register's unimplemented bits (R326). -/
def Implemented (cfg : Config) (r : Reg) (v : Word) : Prop := v &&& ~~~implMask cfg r = 0

/-- Where every bit of a register is implemented, every value is. -/
theorem implemented_of_full {cfg : Config} {r : Reg} (h : implMask cfg r = 0xFFFFFFFF) (v : Word) :
    Implemented cfg r v := by
  have hnone : ~~~(0xFFFFFFFF : Word) = 0 := by decide
  rw [Implemented, h, hnone]
  exact BitVec.and_zero

theorem implemented_and {cfg : Config} {r : Reg} {v : Word} (h : Implemented cfg r v) (w : Word) :
    Implemented cfg r (v &&& w) := by
  rw [Implemented] at *
  rw [BitVec.and_assoc, BitVec.and_comm w, ← BitVec.and_assoc, h]
  exact BitVec.zero_and

/-- A value cut to the implemented bits. -/
theorem implemented_mask (cfg : Config) (r : Reg) (v : Word) : Implemented cfg r (v &&& implMask cfg r) := by
  rw [Implemented, BitVec.and_assoc]
  simp

/-- The invariant speaks of the five registers that have unimplemented bits; of the others it says nothing, so it is one
statement about all registers. -/
theorem reservedZero_iff (s : State) : s.ctl.reservedZero s.cfg ↔ ∀ r, Implemented s.cfg r (regGet s r) := by
  constructor
  · rintro ⟨hcurchan, hramht, hramfc, hacquire, hintrEn⟩ r
    cases r
    case fifoCurchan => exact hcurchan
    case fifoRamht => exact hramht
    case fifoRamfc => exact hramfc
    case fifoAcquire => exact hacquire
    case intrEn => exact hintrEn
    all_goals exact implemented_of_full rfl _
  · intro h
    exact ⟨h .fifoCurchan, h .fifoRamht, h .fifoRamfc, h .fifoAcquire, h .intrEn⟩

/-- A store of a register keeps the invariant where the value has none of the unimplemented bits. -/
theorem regSet_keeps_reservedZero {s : State} (h : s.ctl.reservedZero s.cfg) {r : Reg} {v : Word}
    (hv : Implemented s.cfg r v) : (regSet r v s).ctl.reservedZero s.cfg := by
  have hcfg : (regSet r v s).cfg = s.cfg := by rw [regSet_frame]
  have hall := (reservedZero_iff s).1 h
  rw [← hcfg, reservedZero_iff, hcfg]
  intro q
  by_cases hq : q = .intr
  · subst hq
    exact implemented_of_full rfl _
  · by_cases hqr : q = r
    · subst hqr
      rwa [regGet_regSet_same hq]
    · rw [regGet_regSet_other hqr hq]
      exact hall q

/-- What a host write stores in a register (R326, R328). -/
theorem implemented_regWritten {cfg : Config} {r : Reg} {old : Word} (h : Implemented cfg r old) (v m : Word) :
    Implemented cfg r (regWritten cfg r old v m) := by
  unfold regWritten
  split
  · exact h
  · exact implemented_mask cfg r _
  · exact implemented_and h _

/-- A channel id fits in the implemented bits of FIFO_CURCHAN (R23). -/
theorem implemented_chidWord (cfg : Config) (c : ChanId) : Implemented cfg .fifoCurchan (chidWord c) := by
  show chidWord c &&& ~~~(0x1F : Word) = 0
  revert c
  decide

/-! ## The invariant, piece by piece of a step -/

/-- The invariant reads the parameters, the control registers and the coming inputs, and nothing else. -/
theorem RegisterInv.congr {s t : State} (h : RegisterInv s) (hcfg : t.cfg = s.cfg) (hctl : t.ctl = s.ctl)
    (hin : t.inputs = s.inputs) : RegisterInv t := by
  unfold RegisterInv RestoresMeet
  rw [hcfg, hctl, hin]
  exact h

/-- Of the control registers no command word touches one with unimplemented bits. -/
theorem LeavesRest.registerInv {s t : State} (hl : LeavesRest s t) (h : RegisterInv s) : RegisterInv t := by
  unfold RegisterInv RestoresMeet
  rw [hl.cfg, hl.inputs, hl.ctl]
  exact h

/-- Every instruction keeps the invariant. -/
theorem exec_keeps_registerInv {i : Instr} {s t : State} (h : RegisterInv s) (hx : exec i s = .next t) :
    RegisterInv t := by
  have hrest : ∃ u, exec i s = .next u ∧ LeavesRest s u := by
    cases hi : i.isParameter with
    | false =>
      obtain ⟨u, hu, hleaves, -⟩ := exec_control_leavesRest hi s
      exact ⟨u, hu, hleaves⟩
    | true =>
      obtain ⟨u, hu, hleaves, -⟩ := exec_parameter_leavesRest hi s
      exact ⟨u, hu, hleaves⟩
  obtain ⟨u, hu, hleaves⟩ := hrest
  rw [hu] at hx
  cases hx
  exact hleaves.registerInv h

theorem regSet_keeps_registerInv {s : State} (h : RegisterInv s) {r : Reg} {v : Word} (hv : Implemented s.cfg r v) :
    RegisterInv (regSet r v s) := by
  obtain ⟨hctl, hrestore⟩ := h
  have hset := regSet_keeps_reservedZero hctl hv
  rw [regSet_frame]
  exact ⟨hset, hrestore⟩

/-- Presenting the line stores no register. -/
theorem updateIrq_keeps_registerInv {s : State} (h : RegisterInv s) : RegisterInv (updateIrq s) := h.congr rfl rfl rfl

/-- A write of a control register stores implemented bits only. -/
theorem regWrite_keeps_registerInv {s : State} (h : RegisterInv s) (r : Reg) (v m : Word) :
    RegisterInv (regWrite r v m s) := by
  have hset : RegisterInv (regSet r (regWritten s.cfg r (regGet s r) v m) s) :=
    regSet_keeps_registerInv h (implemented_regWritten ((reservedZero_iff s).1 h.1 r) v m)
  unfold regWrite
  simp only
  split
  · exact updateIrq_keeps_registerInv hset
  · exact hset

/-- The put location is a live register or a word of device memory (R335). -/
theorem putWrite_keeps_registerInv {s : State} (h : RegisterInv s) (c : ChanId) (v m : Word) :
    RegisterInv (putWrite c v m s) := by
  by_cases hc : c = s.cur
  · rw [putWrite_current hc]
    exact h.congr rfl rfl rfl
  · rw [putWrite_saved hc, devWrite_frame]
    exact h.congr rfl rfl rfl

/-- One word operation of a host write keeps the invariant, wherever it lands. -/
theorem writeWord_keeps_registerInv {s : State} (h : RegisterInv s) (a : Nat) (v m : Word) :
    RegisterInv (writeWord a v m s) := by
  unfold writeWord
  split
  · exact regWrite_keeps_registerInv h _ v m
  · rw [objectWrite_frame]
    exact h.congr rfl rfl rfl
  · exact putWrite_keeps_registerInv h _ v m
  · exact h
  · exact h
  · exact h

/-- A context switch stores a channel id in FIFO_CURCHAN (R311). -/
theorem contextSwitch_keeps_registerInv {s : State} (h : RegisterInv s) (c : ChanId) :
    RegisterInv (contextSwitch c s) := by
  rw [contextSwitch_frame]
  exact (regSet_keeps_registerInv h (implemented_chidWord s.cfg c)).congr rfl rfl rfl

theorem makeCurrent_keeps_registerInv {s : State} (h : RegisterInv s) (c : ChanId) : RegisterInv (makeCurrent c s) := by
  unfold makeCurrent
  split
  · exact h
  · exact contextSwitch_keeps_registerInv h c

/-- The end of the tick clears a bit of FIFO_ACQUIRE (R343). -/
theorem clearAcquire_keeps_registerInv {s : State} (h : RegisterInv s) : RegisterInv (clearAcquire s) :=
  regSet_keeps_registerInv (r := .fifoAcquire) h (implemented_and ((reservedZero_iff s).1 h.1 .fifoAcquire) _)

/-- One round of the tick stores a register in its context switch or at its end only. -/
theorem tickRound_keeps_registerInv {s : State} (h : RegisterInv s) (c : Nat) (ts : List Task) :
    RegisterInv (tickRound c ts s) := by
  have hrest : RegisterInv { s with tasks := ts } := h.congr rfl rfl rfl
  unfold tickRound
  split
  · simp only
    split
    · exact (makeCurrent_keeps_registerInv h _).congr rfl rfl rfl
    · exact h.congr rfl rfl rfl
  · exact clearAcquire_keeps_registerInv hrest

/-- Every bit of a register that an external source can raise is implemented (R347, R371). -/
theorem extRaise_keeps_registerInv {s : State} (h : RegisterInv s) (x : ExtReg) (bits : Word) :
    RegisterInv (extRaise x bits s) := by
  have hfull : implMask s.cfg (extReg x) = 0xFFFFFFFF := by cases x <;> rfl
  exact updateIrq_keeps_registerInv (regSet_keeps_registerInv h (implemented_of_full hfull _))

/-- After a reset every register is 0 (R400). -/
theorem resetBlock_keeps_registerInv {s : State} (h : RegisterInv s) : RegisterInv (resetBlock s) :=
  ⟨⟨BitVec.zero_and, BitVec.zero_and, BitVec.zero_and, BitVec.zero_and, BitVec.zero_and⟩, h.2⟩

/-- Of all inputs only a restore brings in other registers, which the invariant covers (R349). -/
theorem takeInput_keeps_registerInv {s : State} (h : RegisterInv s) (i : Input)
    (hi : ∀ b, i = .restore b → b.ctl.reservedZero s.cfg) : RegisterInv (takeInput i s) := by
  cases i with
  | read a size => exact h.congr rfl rfl rfl
  | write a size data => exact h.congr rfl rfl rfl
  | tick =>
    show RegisterInv (startTick s)
    unfold startTick
    split
    · exact h.congr rfl rfl rfl
    · exact h
  | extRaise x bits => exact extRaise_keeps_registerInv h x bits
  | pendTake =>
    show RegisterInv (pendTake s)
    unfold pendTake
    split <;> exact h.congr rfl rfl rfl
  | reset => exact resetBlock_keeps_registerInv h
  | snapshot => exact h.congr rfl rfl rfl
  | restore b => exact ⟨hi b rfl, h.2⟩

/-- A step between two accesses keeps the invariant, for every block that a restore brings in meets it. -/
theorem idleStep_keeps_registerInv {s : State} (h : RegisterInv s) : RegisterInv (idleStep s) := by
  unfold idleStep
  split
  case h_1 => exact h
  case h_2 i is hin =>
    obtain ⟨hctl, hrestore⟩ := h
    have htail : RegisterInv { s with inputs := is } :=
      ⟨hctl, fun b hb => hrestore b (hin ▸ List.mem_cons_of_mem i hb)⟩
    refine takeInput_keeps_registerInv htail i fun b hb => hrestore b ?_
    rw [hin, hb]
    exact List.mem_cons_self

/-- Settles O56, along the cases of a step. -/
theorem stepKeepsRegisterInv : Obligations.StepKeepsRegisterInv := by
  intro s t h hstep
  obtain ⟨-, -, -, rfl⟩ | ⟨-, i, -, -, -, hx⟩ | ⟨a, v, m, ts, -, rfl⟩ | ⟨c, ts, -, rfl⟩ | ⟨-, rfl⟩ :=
    step_cases hstep
  · exact h.congr rfl rfl rfl
  · have hfetch : RegisterInv (fetchWord s).2 := by
      rw [fetchWord_frame]
      exact h.congr rfl rfl rfl
    exact exec_keeps_registerInv hfetch hx
  · have hrest : RegisterInv { s with tasks := ts } := h.congr rfl rfl rfl
    exact writeWord_keeps_registerInv hrest a v m
  · exact tickRound_keeps_registerInv h c ts
  · exact idleStep_keeps_registerInv h

end Sys2Proof.Machine
end

section
/-! No step stops (60_exceptions.md R361, R364), and the level last presented to the sink is the line (60_exceptions.md
R374): O5 and O58. -/
namespace Sys2Proof.Machine

open Sys2Proof

/-! ## No step stops -/

/-- Every instruction answers a next state: a control word by its own case, a parameter word because its dispatch, let
through or failed, always ends (R161, R361). -/
theorem exec_answers (i : Instr) (s : State) : ∃ t, exec i s = .next t := by
  cases hi : i.isParameter with
  | false =>
    obtain ⟨f, g, es, hx, -⟩ := exec_control i hi s
    exact ⟨_, hx⟩
  | true =>
    obtain ⟨e, -, ⟨hx, -⟩ | ⟨hx, -⟩⟩ := exec_parameter_cases i hi s
    · exact ⟨_, hx⟩
    · exact ⟨_, hx⟩

/-- A pass of the drain loop leaves it or runs an instruction. -/
theorem drainStep_answers (s : State) : ∃ t, drainStep s = .next t := by
  unfold drainStep
  split
  · exact ⟨_, rfl⟩
  · exact exec_answers _ _

/-- Settles O5: of the kinds of step only a pass of the drain loop could stop, and only in its instruction. -/
theorem neverStops : Obligations.NeverStops := by
  refine ⟨fun s => ?_, exec_answers⟩
  unfold step
  split
  case h_1 => exact drainStep_answers s
  case h_2 => exact ⟨_, rfl⟩
  case h_3 => exact ⟨_, rfl⟩
  case h_4 => exact ⟨_, rfl⟩

/-! ## The presented level -/

/-- The invariant reads what was presented and the line, and nothing else. -/
theorem LineInv.congr {s t : State} (h : LineInv s) (hirq : t.irqOut = s.irqOut)
    (hline : irqLine t.cfg.bits t.ctl = irqLine s.cfg.bits s.ctl) : LineInv t := by
  unfold LineInv
  rw [hirq, hline]
  exact h

/-- Every instruction keeps the invariant: a control word touches no operand of the line, and the parser's bookkeeping
and a dispatch failure leave the line as the effects left it (R160, R161). -/
theorem exec_keeps_lineInv {i : Instr} {s t : State} (h : LineInv s) (hx : exec i s = .next t) : LineInv t := by
  cases hi : i.isParameter with
  | false =>
    obtain ⟨f, g, es, hf, -⟩ := exec_control i hi s
    rw [hf] at hx
    cases hx
    exact h.congr rfl rfl
  | true =>
    obtain ⟨e, he, hcases⟩ := exec_parameter_cases i hi s
    have heffects : LineInv e := he.lineInv (h.congr rfl rfl)
    obtain ⟨hn, -⟩ | ⟨hn, -⟩ := hcases
    all_goals
      rw [hn] at hx
      cases hx
      exact heffects.congr rfl rfl

/-- A store of a register that does not move the line (R325, R328). -/
theorem regSet_keeps_lineInv {s : State} (h : LineInv s) {r : Reg} (hmoves : movesIrq r = false) (v : Word) :
    LineInv (regSet r v s) := by
  have hirq : (regSet r v s).irqOut = s.irqOut := by rw [regSet_frame]
  have hcfg : (regSet r v s).cfg = s.cfg := by rw [regSet_frame]
  refine h.congr hirq ?_
  rw [hcfg, irqLine_regSet hmoves]

/-- A write of a register presents the line, or the register is no operand of it (R325, R328). -/
theorem regWrite_keeps_lineInv {s : State} (h : LineInv s) (r : Reg) (v m : Word) : LineInv (regWrite r v m s) := by
  unfold regWrite
  cases hmoves : movesIrq r with
  | true => exact lineInv_updateIrq _
  | false => exact regSet_keeps_lineInv h hmoves _

/-- The put location is a live register or a word of device memory, and the line reads neither (R335). -/
theorem putWrite_keeps_lineInv {s : State} (h : LineInv s) (c : ChanId) (v m : Word) : LineInv (putWrite c v m s) := by
  unfold putWrite
  split
  · exact h.congr rfl rfl
  · exact (Effects.devWrite _ _ _ _).lineInv h

/-- One word operation of a host write keeps the invariant, wherever it lands. -/
theorem writeWord_keeps_lineInv {s : State} (h : LineInv s) (a : Nat) (v m : Word) : LineInv (writeWord a v m s) := by
  unfold writeWord
  split
  · exact regWrite_keeps_lineInv h _ v m
  · exact (effects_objectWrite _ v m s).lineInv h
  · exact putWrite_keeps_lineInv h _ v m
  · exact h
  · exact h
  · exact h

/-- Of the control registers a context switch stores FIFO_CURCHAN alone, no operand of the line (R311). -/
theorem makeCurrent_keeps_lineInv {s : State} (h : LineInv s) (c : ChanId) : LineInv (makeCurrent c s) := by
  unfold makeCurrent
  split
  · exact h
  · rw [contextSwitch_frame]
    exact h.congr rfl rfl

/-- A round of the tick makes a channel current, or clears the acquire flag, or neither (R343). -/
theorem tickRound_keeps_lineInv {s : State} (h : LineInv s) (c : Nat) (ts : List Task) :
    LineInv (tickRound c ts s) := by
  unfold tickRound
  split
  · simp only
    split
    · exact (makeCurrent_keeps_lineInv h _).congr rfl rfl
    · exact h.congr rfl rfl
  · exact h.congr rfl rfl

/-- The inputs that move an operand of the line present it: an external source, a reset and a restore (R371, R374,
R400). -/
theorem takeInput_keeps_lineInv {s : State} (h : LineInv s) (i : Input) : LineInv (takeInput i s) := by
  cases i with
  | read a size => exact h.congr rfl rfl
  | write a size data => exact h.congr rfl rfl
  | tick =>
    show LineInv (startTick s)
    unfold startTick
    split
    · exact h.congr rfl rfl
    · exact h
  | extRaise x bits => exact lineInv_updateIrq _
  | pendTake =>
    show LineInv (pendTake s)
    unfold pendTake
    split <;> exact h.congr rfl rfl
  | reset => exact lineInv_updateIrq _
  | snapshot => exact h.congr rfl rfl
  | restore b => exact lineInv_updateIrq _

theorem idleStep_keeps_lineInv {s : State} (h : LineInv s) : LineInv (idleStep s) := by
  unfold idleStep
  split
  case h_1 => exact h
  case h_2 i is _ => exact takeInput_keeps_lineInv (s := { s with inputs := is }) (h.congr rfl rfl) i

/-- Settles O58, along the cases of a step. -/
theorem stepKeepsLineInv : Obligations.StepKeepsLineInv := by
  intro s t h hstep
  obtain ⟨-, -, -, rfl⟩ | ⟨-, i, -, -, -, hx⟩ | ⟨a, v, m, ts, -, rfl⟩ | ⟨c, ts, -, rfl⟩ | ⟨-, rfl⟩ :=
    step_cases hstep
  · exact h.congr rfl rfl
  · have hfetch : LineInv (fetchWord s).2 := by
      rw [fetchWord_frame]
      exact h.congr rfl rfl
    exact exec_keeps_lineInv hfetch hx
  · exact writeWord_keeps_lineInv (s := { s with tasks := ts }) (h.congr rfl rfl) a v m
  · exact tickRound_keeps_lineInv h c ts
  · exact idleStep_keeps_lineInv h

end Sys2Proof.Machine
end

section
/-! Reset (70_reset_and_hazards.md R400, 45_host_access.md R348): what it leaves, and that every invariant starts from it:
O54 and O60. -/
namespace Sys2Proof.Machine

open Sys2Proof

/-! ## The block after reset -/

/-- A domain with no status bit set has no pending cause, whatever is enabled (R370). -/
@[simp] theorem domainPending_zero (enable : Word) : domainPending 0 enable = false := by simp [domainPending]

/-- With no status bit set in any domain, `INTR` is 0 (R32, R400). -/
theorem intrWord_reset (b : BitPlaces) (dev : Memory) : intrWord b (Block.reset dev).ctl = 0 :=
  have hdomain := domainPending_zero 0
  (intrWord_eq_zero b _).2 ⟨hdomain, hdomain, hdomain, hdomain⟩

/-- After a reset the line is low, wherever the bits of `INTR` and the global enable stand (R374, R400). -/
theorem irqLine_reset (b : BitPlaces) (dev : Memory) : irqLine b (Block.reset dev).ctl = false := by
  rw [Bool.eq_false_iff, Ne, irqLine_iff]
  rintro ⟨hpending, -⟩
  exact hpending (intrWord_reset b dev)

/-- After a reset every register reads 0: the stored ones are 0, and `INTR` is computed from them (R32, R400). -/
theorem regGet_of_reset {t : State} {dev : Memory} (h : t.toBlock = Block.reset dev) (r : Reg) : regGet t r = 0 := by
  have hlive : t.live = (Block.reset dev).live := congrArg Block.live h
  have hctl : t.ctl = (Block.reset dev).ctl := congrArg Block.ctl h
  cases r
  case intr =>
    show intrWord t.cfg.bits t.ctl = 0
    rw [hctl, intrWord_reset]
  all_goals
    simp only [regGet, hlive, hctl]
    rfl

/-- After a reset every channel has the reset record (R57, R400). -/
theorem chan_of_reset {t : State} {dev : Memory} (h : t.toBlock = Block.reset dev) (c : ChanId) :
    t.chan c = Channel.reset := by
  simp only [State.chan, h, Block.reset, Vector.getElem_replicate]

/-- A channel record after reset has every subchannel unbound (R41, R57). -/
theorem subAt_reset (k : SubId) : Channel.reset.subAt k = Subchannel.reset := by
  simp only [Channel.subAt, Channel.reset, Vector.getElem_replicate]

/-- A reset stores no register bit, so no unimplemented one (R326, R400). -/
theorem reservedZero_reset (cfg : Config) (dev : Memory) : (Block.reset dev).ctl.reservedZero cfg :=
  ⟨BitVec.zero_and, BitVec.zero_and, BitVec.zero_and, BitVec.zero_and, BitVec.zero_and⟩

/-! ## The reset port -/

/-- `Reset()` replaces the block, presents the low line, and does nothing else (R348, R400). -/
theorem resetBlock_eq (s : State) :
    resetBlock s = { s with toBlock := Block.reset s.dev, irqOut := s.irqOut ++ [false] } := by
  rw [resetBlock, updateIrq, irqLine_reset]

/-- Settles O54: the next state's block is the reset block over the old device memory, read field by field. -/
theorem resetLeaves : Obligations.ResetLeaves := by
  intro s is htasks hin
  refine ⟨resetBlock { s with inputs := is }, step_input htasks hin, ?_⟩
  rw [resetBlock_eq]
  refine ⟨rfl, regGet_of_reset rfl, fun c => ?channel, rfl, rfl, irqLine_reset _ _, rfl⟩
  case channel =>
    rw [chan_of_reset rfl c]
    have hmono : ∀ k, k < 2 → Channel.reset.patt.mono[k]! = 0 := by decide
    have hidx : ∀ k, k < 16 → Channel.reset.patt.idx[k]! = 0 := by decide
    exact ⟨rfl, rfl, rfl, rfl, rfl, rfl, subAt_reset, rfl, rfl, rfl, rfl, rfl, rfl, hmono, hidx,
      rfl, rfl, rfl, rfl, rfl, rfl⟩

/-! ## The invariants at power-on -/

/-- At power-on no input is waiting, so no restore. -/
theorem restoresMeet_powerOn (P : Block → Prop) (cfg : Config) (dev : Memory) : RestoresMeet P (State.powerOn cfg dev) :=
  fun _ hb => absurd hb List.not_mem_nil

theorem memoryInv_powerOn {cfg : Config} {dev : Memory} (h : DevOk cfg dev) : MemoryInv (State.powerOn cfg dev) :=
  ⟨h, restoresMeet_powerOn _ cfg dev⟩

theorem registerInv_powerOn (cfg : Config) (dev : Memory) : RegisterInv (State.powerOn cfg dev) :=
  ⟨reservedZero_reset cfg dev, restoresMeet_powerOn _ cfg dev⟩

theorem uploadInv_powerOn (cfg : Config) (dev : Memory) : UploadInv (State.powerOn cfg dev) :=
  ⟨uploadsOk_reset dev, restoresMeet_powerOn _ cfg dev⟩

/-- Nothing has been presented yet, and the line is low. -/
theorem lineInv_powerOn (cfg : Config) (dev : Memory) : LineInv (State.powerOn cfg dev) :=
  (irqLine_reset cfg.bits dev).symm

theorem drainInv_powerOn (cfg : Config) (dev : Memory) : DrainInv (State.powerOn cfg dev) :=
  drainInv_of_not_mem List.not_mem_nil

/-- Memory with nothing listed is canonical, however small the device memory is (R52). -/
theorem devOk_nil (cfg : Config) : DevOk cfg [] := ⟨rfl, fun _ he => absurd he List.not_mem_nil⟩

/-- Settles O60: every invariant holds at power-on, whatever the construction parameters; the memory invariant needs the
initial content canonical, which the empty one is. -/
theorem resetMeetsTheInvariants : Obligations.ResetMeetsTheInvariants :=
  ⟨memoryInv_powerOn (devOk_nil _), registerInv_powerOn _ _, uploadInv_powerOn _ _, lineInv_powerOn _ _,
    drainInv_powerOn _ _⟩

end Sys2Proof.Machine
end
